-- ==== Sys2Proof/Word.lean ====
section
/-! DEFINITION. The word types of CTRKS: bytes, 32-bit register words and 64-bit counters. -/

namespace Sys2Proof

/-- A byte of a byte string, of BUF or of HDR. -/
abbrev Byte := BitVec 8

/-- A register word: every register of the window is 32 bits wide (R18). -/
abbrev Word := BitVec 32

/-- A 64-bit quantity: POS, CTR, ARG (R32, R33, R25) or one Keccak lane (R99). -/
abbrev DWord := BitVec 64

end Sys2Proof
end

