-- ==== Sys2Proof/Config.lean ====
section
/-! DEFINITION. What an implementation fixes: the parameters of R6 and R7 as numbers, the open parameter LAT
of R8, and the free values that R118, R122 and R51 leave unspecified, as constants without a body. -/

namespace Sys2Proof

/-- BLOCK, the AES block in bytes (R6). -/
def Config.blockLen : Nat := 16

/-- HDR_LEN, the header in bytes (R6). -/
def Config.hdrLen : Nat := 128

/-- BUF_SIZE, the data buffer in bytes (R7). -/
def Config.bufSize : Nat := 256

/-- POS_MAX, the largest plaintext position (R7). -/
def Config.posMax : Nat := 2 ^ 63 - 1

/-- The SHA3-256 rate in bytes (R7). -/
def Config.rate : Nat := 136

/-- WINDOW, the size of the register window in bytes (R7). -/
def Config.window : Nat := 1024

/-- MAGIC and PAD, the header's magic and padding byte (R6). -/
def Config.magic : Byte := 0xCD#8

/-- VERSION, the header's format version (R6). -/
def Config.version : Byte := 0x01#8

/-- The open parameter LAT (R8, R125) less one: the command issued at draw `n` takes `Config.latency n + 1` clock
cycles, so LAT is any positive number and may differ per command and per run. No body (log 5: DESIGN CHOICE, safe). -/
opaque Config.latency : Nat → Nat

/-- The byte that offset `a` of HDR or BUF holds after reset number `epoch` until it is written (R118: "a model
draws each byte freely at reset"; 93: stable until written). No body (log 1: DESIGN CHOICE, safe). -/
opaque Config.ramByte : Nat → Nat → Byte

/-- The data of read draw `n` where the spec leaves the data unspecified (R122, R51, R52). No body (log 2:
DESIGN CHOICE, safe). -/
opaque Config.freeWord : Nat → Word

/-- Whether the transaction of draw `n`, made in a cycle in which reset is asserted, answers OKAY; the spec is
silent on that response. No body (log 7: DESIGN CHOICE, safe). -/
opaque Config.freeOkay : Nat → Bool

end Sys2Proof
end

