-- ==== Sys2Proof/Syntax.lean ====
section
/-! DEFINITION. The commands of CTRKS, one constructor per row of the opcode table (R66). -/

namespace Sys2Proof

/-- A decoded command. `off` is a byte index into BUF and `len` a byte count, both zero-extended and unscaled
(R64). No command names a register (R16). -/
inductive Instr where
  /-- NOP (R73). -/
  | nop
  /-- INIT (R74). -/
  | init
  /-- SEEK (R78); the offset is in ARG, not in the word. -/
  | seek
  /-- XOR off, len (R79). -/
  | xor (off : BitVec 8) (len : BitVec 9)
  /-- DG_INIT (R85). -/
  | dgInit
  /-- DG_ABSORB off, len (R86). -/
  | dgAbsorb (off : BitVec 8) (len : BitVec 9)
  /-- DG_FINAL_PWD (R87). -/
  | dgFinalPwd
  /-- DG_FINAL_SALT (R88). -/
  | dgFinalSalt
  /-- HDR_BUILD (R90). -/
  | hdrBuild
  /-- HDR_CHECK len (R91). -/
  | hdrCheck (len : BitVec 9)
  /-- CLOSE (R75). -/
  | close
  deriving DecidableEq, Repr

end Sys2Proof
end

