-- ==== Sys2Proof/WellFormed.lean ====
section
/-! DEFINITION. Which commands have a legal word (R66, R67, R68): the bounds on LEN. -/

namespace Sys2Proof

/-- LEN of XOR and of DG_ABSORB is 0 to 256 (R66). -/
def bufLenOk (len : BitVec 9) : Bool := len.toNat ≤ Config.bufSize

/-- LEN of HDR_CHECK is 0 to 128 (R66). -/
def hdrLenOk (len : BitVec 9) : Bool := len.toNat ≤ Config.hdrLen

/-- The commands that a legal word stands for (R69). OFF is 0 to 255 by its width. A well-formed command may still
fail a check of its own rule, such as BUF_RANGE. -/
def Instr.wellFormed (i : Instr) : Bool :=
  match i with
  | .nop => true
  | .init => true
  | .seek => true
  | .xor _ len => bufLenOk len
  | .dgInit => true
  | .dgAbsorb _ len => bufLenOk len
  | .dgFinalPwd => true
  | .dgFinalSalt => true
  | .hdrBuild => true
  | .hdrCheck len => hdrLenOk len
  | .close => true

end Sys2Proof
end

