-- ==== Sys2Proof/Decode.lean ====
section
/-! DEFINITION. The command word: its fields (R63), its decoder (R67), total on every 32-bit word and rejecting by
name, and its encoder (R63, R66). -/

namespace Sys2Proof

/-- Why a word is no legal command (R68). Every one of them completes with ILLEGAL_CMD. -/
inductive DecodeError where
  /-- RES, bits [31:25], is not 0. -/
  | reservedNotZero
  /-- OPC is 0x0B to 0xFF. -/
  | opcodeReserved
  /-- XOR or DG_ABSORB with LEN over 256, or HDR_CHECK with LEN over 128. -/
  | lenTooLong
  /-- HDR_CHECK with OFF ≠ 0. -/
  | offNotZero
  /-- A command without operands with LEN ≠ 0 or OFF ≠ 0. -/
  | operandNotZero
  deriving DecidableEq, Repr

/-- OPC, bits [7:0] (R63). -/
def fieldOpc (w : Word) : BitVec 8 := w.extractLsb' 0 8

/-- LEN, bits [16:8] (R63). -/
def fieldLen (w : Word) : BitVec 9 := w.extractLsb' 8 9

/-- OFF, bits [24:17] (R63). -/
def fieldOff (w : Word) : BitVec 8 := w.extractLsb' 17 8

/-- RES, bits [31:25] (R63). -/
def fieldRes (w : Word) : BitVec 7 := w.extractLsb' 25 7

/-- The check of a command that takes neither LEN nor OFF (R67, last line of the decode). -/
def decodeBare (i : Instr) (len : BitVec 9) (off : BitVec 8) : Except DecodeError Instr :=
  if off ≠ 0 ∨ len ≠ 0 then .error .operandNotZero else .ok i

/-- The check of XOR and DG_ABSORB (R67): LEN at most 256. -/
def decodeRange (i : Instr) (len : BitVec 9) : Except DecodeError Instr :=
  if bufLenOk len then .ok i else .error .lenTooLong

/-- The check of HDR_CHECK (R67): OFF = 0 and LEN at most 128. -/
def decodeHdrCheck (len : BitVec 9) (off : BitVec 8) : Except DecodeError Instr :=
  if off ≠ 0 then .error .offNotZero
  else if hdrLenOk len then .ok (.hdrCheck len) else .error .lenTooLong

/-- The opcode map (R66) with the operand checks of R67, on a word whose RES is 0. -/
def decodeOpcode (opc : Nat) (len : BitVec 9) (off : BitVec 8) : Except DecodeError Instr :=
  match opc with
  | 0x00 => decodeBare .nop len off
  | 0x01 => decodeBare .init len off
  | 0x02 => decodeBare .seek len off
  | 0x03 => decodeRange (.xor off len) len
  | 0x04 => decodeBare .dgInit len off
  | 0x05 => decodeRange (.dgAbsorb off len) len
  | 0x06 => decodeBare .dgFinalPwd len off
  | 0x07 => decodeBare .dgFinalSalt len off
  | 0x08 => decodeBare .hdrBuild len off
  | 0x09 => decodeHdrCheck len off
  | 0x0A => decodeBare .close len off
  | _ => .error .opcodeReserved

/-- The decoder of R67: every 32-bit word has exactly one outcome. -/
def decode (w : Word) : Except DecodeError Instr :=
  if fieldRes w ≠ 0 then .error .reservedNotZero
  else decodeOpcode (fieldOpc w).toNat (fieldLen w) (fieldOff w)

/-- The instruction the decoder reads from a word written as a number, none where it refuses. A command is one
32-bit word written whole to CMD (R63), so the bits above `nbits` are 0 and no byte order enters. -/
def decodeTableWord (nbits w : Nat) : Option Instr :=
  match decode (BitVec.ofNat 32 (w % 2 ^ nbits)) with
  | .ok i => some i
  | .error _ => none

/-- `{RES, OFF, LEN, OPC}` with RES = 0 (R63). -/
def commandWord (opc : BitVec 8) (len : BitVec 9) (off : BitVec 8) : Word := 0#7 ++ off ++ len ++ opc

/-- The word of a command (R66, R73 to R91). -/
def encode (i : Instr) : Word :=
  match i with
  | .nop => commandWord 0x00#8 0 0
  | .init => commandWord 0x01#8 0 0
  | .seek => commandWord 0x02#8 0 0
  | .xor off len => commandWord 0x03#8 len off
  | .dgInit => commandWord 0x04#8 0 0
  | .dgAbsorb off len => commandWord 0x05#8 len off
  | .dgFinalPwd => commandWord 0x06#8 0 0
  | .dgFinalSalt => commandWord 0x07#8 0 0
  | .hdrBuild => commandWord 0x08#8 0 0
  | .hdrCheck len => commandWord 0x09#8 len 0
  | .close => commandWord 0x0A#8 0 0

end Sys2Proof
end

