-- ==== Sys2Proof/Machine/Bytes.lean ====
section
/-! DEFINITION. Byte strings: reading byte `i` of one, tabulating one, and the byte orders of R11 and R20. -/

namespace Sys2Proof.Machine

/-- Entry `i` of a fixed-length string, and `d` past its end (no caller reads there). -/
def nth {α : Type} {n : Nat} (v : Vector α n) (i : Nat) (d : α) : α := v.toList.getD i d

/-- The string of length `n` whose entry `i` is `f i`. -/
def tab {α : Type} (n : Nat) (f : Nat → α) : Vector α n := ⟨⟨(List.range n).map f⟩, by simp⟩

/-- Byte `r` of a word, byte 0 in bits [7:0] (R20). -/
def wordByte (w : Word) (r : Nat) : Byte := w.extractLsb' (8 * r) 8

/-- The word of four consecutive bytes, the lowest-numbered in bits [7:0] (R20). -/
def packWord (b0 b1 b2 b3 : Byte) : Word := b3 ++ b2 ++ b1 ++ b0

/-- `LE32(n)`: four bytes, least significant first (R11). -/
def le32 (w : Word) : List Byte := [wordByte w 0, wordByte w 1, wordByte w 2, wordByte w 3]

/-- `uLE32(B)`: a 4-byte string read least significant byte first (R11). -/
def uLE32 (bs : List Byte) : Word := packWord (bs.getD 0 0) (bs.getD 1 0) (bs.getD 2 0) (bs.getD 3 0)

/-- Word `k` of a byte string: its bytes `4k` to `4k + 3`, byte `4k` in bits [7:0], past its end 0 (R20). -/
def stringWord (bs : List Byte) (k : Nat) : Word :=
  packWord (bs.getD (4 * k) 0) (bs.getD (4 * k + 1) 0) (bs.getD (4 * k + 2) 0) (bs.getD (4 * k + 3) 0)

/-- Byte `j` of `BE64(n)`, most significant byte first: bits `63 − 8j : 56 − 8j` (R11, R49). -/
def be64Byte (n : DWord) (j : Nat) : Byte := n.extractLsb' (56 - 8 * j) 8

/-- Word `k` of a 32-byte string: bytes `4k` to `4k + 3` (R20, R35). -/
def digestWord (d : Vector Byte 32) (k : Nat) : Word := stringWord d.toList k

/-- Byte `j` of the byte string that the words `v` hold (R20). -/
def byteOfWords {n : Nat} (v : Vector Word n) (j : Nat) : Byte := wordByte (nth v (j / 4) 0) (j % 4)

/-- The byte string with byte `i` XORed with `b`. -/
def xorAt {n : Nat} (v : Vector Byte n) (i : Nat) (b : Byte) : Vector Byte n :=
  v.setIfInBounds i (nth v i 0 ^^^ b)

end Sys2Proof.Machine
end

