-- ==== Sys2Proof/Machine/State.lean ====
section
/-! DEFINITION. The state of one CTRKS instance as plain data, the bus transactions and their responses, the
reasons a step can stop, and the state after reset. -/

namespace Sys2Proof.Machine

/-- The error codes of STATUS.ERR; no other value is ever written (R102). -/
inductive ErrCode where
  /-- 0x00: no error. -/
  | ok
  /-- 0x01: the word fails a decode check. -/
  | illegalCmd
  /-- 0x02: CTRL.KEYLEN = 3. -/
  | paramInvalid
  /-- 0x03: KS_READY = 0. -/
  | notInit
  /-- 0x04: OFF + LEN > 256. -/
  | bufRange
  /-- 0x05: a position past the range of R77. -/
  | posRange
  /-- 0x06: no open digest computation, or a digest that is not valid. -/
  | digestState
  /-- 0x07: a header check failed. -/
  | headerInvalid
  deriving DecidableEq, Repr

/-- The width of a bus transaction; only `word` is legal (R51). -/
inductive AccessSize where
  | byte
  | half
  | word
  deriving DecidableEq, Repr

/-- A bus transaction (R45). `off` is the 10-bit byte offset in the window; bit `k` of `strobes` says that byte
lane `k` of a write is driven. -/
inductive BusReq where
  | read (off : BitVec 10) (size : AccessSize)
  | write (off : BitVec 10) (size : AccessSize) (strobes : BitVec 4) (data : Word)
  deriving DecidableEq, Repr

/-- The response to a transaction (R45). -/
inductive Resp where
  | okay
  | slverr
  deriving DecidableEq, Repr

/-- What the bus master gets back: the response, and for a read the data. -/
structure BusResult where
  resp : Resp
  data : Option Word
  deriving DecidableEq, Repr

/-- What reaches the machine from outside in one clock cycle: the reset input and at most one transaction of the
one host (R15, R58). -/
structure CycleIn where
  reset : Bool
  bus : Option BusReq
  deriving DecidableEq, Repr

/-- A cycle in which neither reset nor the host acts. -/
def CycleIn.idle : CycleIn := { reset := false, bus := none }

/-- The registers that only the host writes, but for CLOSE, which zeroes `key` (R21 to R25, R75). -/
structure ConfigRegs where
  /-- CTRL[1:0] KEYLEN (R21); the rest of CTRL is reserved. -/
  keylen : BitVec 2
  /-- ROUNDS (R22). -/
  rounds : Word
  /-- KEY0 to KEY7 (R23). -/
  key : Vector Word 8
  /-- IVB0 and IVB1 (R24). -/
  ivb : Vector Word 2
  /-- ARG_LO (R25). -/
  argLo : Word
  /-- ARG_HI (R25). -/
  argHi : Word
  deriving DecidableEq, Repr

/-- The keystream state: the source's `KeystreamState` with the position (R32 to R34, R38 to R40). -/
structure Keystream where
  /-- KS_KEY: 0, 16, 24 or 32 bytes. KS_READY is 1 exactly when it is not empty (R38). -/
  key : List Byte
  /-- IVB_L (R39). -/
  ivb : Vector Byte 8
  /-- ECOUNT (R40). -/
  ecount : Vector Byte 16
  /-- CTR (R33). -/
  ctr : DWord
  /-- NUM (R34). -/
  num : BitVec 4
  /-- POS (R32). -/
  pos : DWord
  deriving DecidableEq, Repr

/-- SPONGE and DG_IDX (R41). -/
structure Sponge where
  bytes : Vector Byte 200
  idx : Fin 136
  deriving DecidableEq, Repr

/-- The digest unit: STATUS.DG_ACTIVE, PWD_DV and SALT_DV (R27), the open computation (R41) and the two digest
registers (R35). -/
structure DigestUnit where
  active : Bool
  sponge : Sponge
  pwd : Vector Byte 32
  salt : Vector Byte 32
  pwdDv : Bool
  saltDv : Bool
  deriving DecidableEq, Repr

/-- The two byte memories (R46), HDR and BUF, keyed by byte offset in the window (R20): the bytes written since
the last reset, addresses strictly rising. An unlisted byte is one that nothing has written; its value is the free
value `Config.ramByte` (R118, log 1). -/
abbrev Memory := List Host.Cell

/-- The state of one instance. STATUS.BUSY is `pend.isSome`, since PEND is valid exactly while BUSY = 1 (R42), and
STATUS.KS_READY is `ks.key ≠ []` (R38; log 10: DEDUCED, safe). The last five fields are the MODEL's own, not the spec's. -/
structure State where
  /-- CTRL, ROUNDS, KEY, IVB, ARG. -/
  cfg : ConfigRegs
  /-- PEND, the word of the command in execution (R42). -/
  pend : Option Word
  /-- LAST_CMD (R31). -/
  lastCmd : Word
  /-- STATUS.ERR (R27). -/
  err : ErrCode
  /-- STATUS.HDR_OK (R27). -/
  hdrOk : Bool
  /-- HDR_RESULT (R30). -/
  hdrResult : Word
  /-- IRQ_EN[2:0] (R28): DONE_IE, ERR_IE, WERR_IE. -/
  irqEn : BitVec 3
  /-- IRQ_STATUS[2:0] (R29): DONE, ERR, WERR. -/
  irqStatus : BitVec 3
  /-- The keystream state. -/
  ks : Keystream
  /-- The digest unit. -/
  dg : DigestUnit
  /-- HDR and BUF. -/
  mem : Memory
  /-- MODEL: the clock cycles the command in PEND still needs, drawn from LAT (R56; log 5: DESIGN CHOICE, safe). -/
  remaining : Nat
  /-- MODEL: what the outside world does in the coming cycles, the next cycle first; past its end every cycle is
  idle (log 4: DESIGN CHOICE, unsafe). -/
  inbox : List CycleIn
  /-- MODEL: what the host got back for the transaction of the last cycle (R127; log 4: DESIGN CHOICE, unsafe). -/
  resp : Option BusResult
  /-- MODEL: the number of resets so far, which selects the free contents of HDR and BUF (log 1: DESIGN CHOICE, safe). -/
  epoch : Nat
  /-- MODEL: the number of free values drawn so far (log 2: DESIGN CHOICE, safe). -/
  draws : Nat
  deriving DecidableEq, Repr

/-- Why the machine stops. -/
inductive Fault where
  /-- Raised by the bus phase of a cycle, for a transaction that is misaligned, narrow, partly strobed or unmapped:
  "A model treats such a transaction as a fault of the host program" (R51, R52). `result` is what the bus answers,
  SLVERR with unspecified read data. Safe: the machine stops where the hardware goes on
  unchanged (log 3: DEDUCED, safe). -/
  | slverr (req : BusReq) (result : BusResult)
  deriving DecidableEq, Repr

/-- Why an instruction has no meaning. -/
inductive Refusal where
  /-- Raised by `exec` alone, for an instruction without a meaning; no arm raises it. Safe. -/
  | notModelled (mnemonic : String)
  deriving DecidableEq, Repr

/-- KEYLEN = 2 and ROUNDS = 5, the source's defaults; KEY, IVB and ARG zero (R118). -/
def ConfigRegs.reset : ConfigRegs :=
  { keylen := 2#2, rounds := 5#32, key := Vector.replicate 8 0#32, ivb := Vector.replicate 2 0#32,
    argLo := 0#32, argHi := 0#32 }

/-- No key and everything zero (R118); CLOSE leaves the same (R75). -/
def Keystream.reset : Keystream :=
  { key := [], ivb := Vector.replicate 8 0#8, ecount := Vector.replicate 16 0#8, ctr := 0#64, num := 0#4,
    pos := 0#64 }

/-- `0^200` and DG_IDX = 0 (R118, R85). -/
def Sponge.zero : Sponge := { bytes := Vector.replicate 200 0#8, idx := 0 }

/-- No open computation and no valid digest (R118). -/
def DigestUnit.reset : DigestUnit :=
  { active := false, sponge := Sponge.zero, pwd := Vector.replicate 32 0#8, salt := Vector.replicate 32 0#8,
    pwdDv := false, saltDv := false }

/-- The machine right after reset (R118). HDR and BUF are unspecified: nothing is listed. -/
def State.reset : State :=
  { cfg := ConfigRegs.reset, pend := none, lastCmd := 0#32, err := .ok, hdrOk := false, hdrResult := 0#32,
    irqEn := 0#3, irqStatus := 0#3, ks := Keystream.reset, dg := DigestUnit.reset, mem := [],
    remaining := 0, inbox := [], resp := none, epoch := 0, draws := 0 }

end Sys2Proof.Machine
end

