-- ==== Sys2Proof/Machine/Ops.lean ====
section
/-! DEFINITION. The named operations over the two memories and the registers: reading and writing a byte, issuing a
command, and completing one with or without an error (the machine's only form of exception, R110). -/

namespace Sys2Proof.Machine

/-! ### The memories -/

/-- The window offset of HDR[0] (R18). -/
def hdrBase : Nat := 0x100

/-- The window offset of BUF[0] (R18). -/
def bufBase : Nat := 0x200

/-- Whether a window offset is a byte of HDR or of BUF (R46). -/
def ramAddr (a : Nat) : Bool :=
  (hdrBase ≤ a && a < hdrBase + Config.hdrLen) || (bufBase ≤ a && a < bufBase + Config.bufSize)

/-- The byte written at `a` since the last reset, none if nothing has written it. -/
def memLookup (m : Memory) (a : Nat) : Option Byte :=
  match m with
  | [] => none
  | (x, b) :: rest => if x = a then some b else memLookup rest a

/-- The memory with byte `b` at `a`, its addresses rising as before. -/
def memInsert (m : Memory) (a : Nat) (b : Byte) : Memory :=
  match m with
  | [] => [(a, b)]
  | (x, c) :: rest =>
    if a < x then (a, b) :: (x, c) :: rest
    else if a = x then (a, b) :: rest
    else (x, c) :: memInsert rest a b

/-- Addresses strictly rising. -/
def memRising (m : Memory) : Bool :=
  match m with
  | [] => true
  | [_] => true
  | (a, _) :: (a', b') :: rest => a < a' && memRising ((a', b') :: rest)

/-- The canonical form: addresses strictly rising and every address a byte of HDR or BUF. A listed byte is never
what an unlisted one is, since an unlisted byte is one that nothing has written. -/
def Memory.wf (m : Memory) : Bool := memRising m && m.all (fun c => ramAddr c.1)

/-- The byte at window offset `a` of HDR or BUF: the one written last, and before any write the byte drawn at the
last reset (R118). -/
def readRam (s : State) (a : Nat) : Byte := (memLookup s.mem a).getD (Config.ramByte s.epoch a)

/-- Write the byte at window offset `a` of HDR or BUF. -/
def writeRam (a : Nat) (b : Byte) (s : State) : State := { s with mem := memInsert s.mem a b }

/-- Write a byte string from window offset `a` up. -/
def writeRamBytes (a : Nat) (bs : List Byte) (s : State) : State :=
  match bs with
  | [] => s
  | b :: rest => writeRamBytes (a + 1) rest (writeRam a b s)

/-- `HDR[j]` (R12). -/
def hdrByte (s : State) (j : Nat) : Byte := readRam s (hdrBase + j)

/-- `BUF[i]` (R12). -/
def bufByte (s : State) (i : Nat) : Byte := readRam s (bufBase + i)

/-- The byte string `HDR[j..j + n)`. -/
def hdrSlice (s : State) (j n : Nat) : List Byte := (List.range n).map fun k => hdrByte s (j + k)

/-- The byte string `BUF[i..i + n)`. -/
def bufSlice (s : State) (i n : Nat) : List Byte := (List.range n).map fun k => bufByte s (i + k)

/-! ### The command in execution -/

/-- STATUS.BUSY: a command is in PEND (R27, R42). -/
def State.busy (s : State) : Bool := s.pend.isSome

/-- STATUS.KS_READY: KS_KEY is not empty (R27, R38). -/
def State.ksReady (s : State) : Bool := !s.ks.key.isEmpty

/-- Issue the word of a CMD write: `PEND <- w; BUSY <- 1` (R55). Every word is accepted. LAT ≥ 1 is drawn (R56). -/
def issue (w : Word) (s : State) : State :=
  { s with pend := some w, remaining := Config.latency s.draws + 1, draws := s.draws + 1 }

/-- The bits that a completion sets in IRQ_STATUS: DONE, and ERR when the code is not OK (R56). -/
def completionIrq (e : ErrCode) : BitVec 3 := if e = .ok then 0b001#3 else 0b011#3

/-- Completing the command in PEND with code `e`, after its effects (R56): the code in STATUS.ERR, the word in
LAST_CMD, DONE and on an error ERR pending, BUSY cleared. This is all that taking an error does: nothing is saved
besides and control goes nowhere (R103, R110), and there is no return (R111). With nothing in PEND, where no run calls
it, LAST_CMD stays (log 14: DESIGN CHOICE, safe). -/
def complete (e : ErrCode) (s : State) : State :=
  { s with
    err := e
    lastCmd := s.pend.getD s.lastCmd
    irqStatus := s.irqStatus ||| completionIrq e
    pend := none
    remaining := 0 }

/-- A command's rule ran without an error: its effects `s` and the completion. -/
def finish (s : State) : Host.Outcome State Fault Refusal := .next (complete .ok s)

/-- `raise <Code>` (R12): the completion with the code and, with `s` the state at the raise, no other effect than
those `s` already has (R104). -/
def raise (e : ErrCode) (s : State) : Host.Outcome State Fault Refusal := .next (complete e s)

/-! ### Reset -/

/-- A cycle in which reset is asserted, after its inputs are taken from the inbox (R118, R119): everything is as
right after reset, HDR and BUF are drawn anew, and a command in PEND is gone without a completion. -/
def resetState (s : State) : State :=
  { State.reset with inbox := s.inbox, epoch := s.epoch + 1, draws := s.draws }

end Sys2Proof.Machine
end

