-- ==== Sys2Proof/Machine/Operands.lean ====
section
/-! DEFINITION. The operand forms: the BUF range of a word's OFF and LEN (R64), the seek offset (R25), the key and the IV
prefix as INIT latches them (R23, R24), and the counter block (R33, R49). -/

namespace Sys2Proof.Machine

/-- OFF + LEN > 256, in exact arithmetic: the range leaves BUF (R102, BUF_RANGE). -/
def bufRangeBad (off : BitVec 8) (len : BitVec 9) : Bool := off.toNat + len.toNat > Config.bufSize

/-- The seek offset `p = {ARG_HI, ARG_LO}` (R25). -/
def seekOffset (c : ConfigRegs) : DWord := c.argHi ++ c.argLo

/-- `p ≥ 2^63`: SEEK's POS_RANGE (R78). -/
def seekRangeBad (p : DWord) : Bool := p.toNat ≥ 2 ^ 63

/-- `POS + LEN > 2^63 − 1`, in exact arithmetic: XOR's POS_RANGE (R77, R79). -/
def xorRangeBad (pos : DWord) (len : BitVec 9) : Bool := pos.toNat + len.toNat > Config.posMax

/-- KEYLEN = 3, the reserved code (R21). -/
def keylenBad (c : ConfigRegs) : Bool := c.keylen = 3#2

/-- The key length in bytes that KEYLEN selects (R21, R74). KEYLEN = 3 never gets here. -/
def keyBytes (c : ConfigRegs) : Nat :=
  if c.keylen = 0#2 then 16 else if c.keylen = 1#2 then 24 else 32

/-- `KEY[0..n)` (R23). -/
def keyString (c : ConfigRegs) (n : Nat) : List Byte := (List.range n).map (byteOfWords c.key)

/-- `IVB[0..8)` (R24). -/
def ivbString (c : ConfigRegs) : Vector Byte 8 := tab 8 (byteOfWords c.ivb)

/-- `IVB_L ‖ BE64(n)`, the AES input block (R33, R49). -/
def counterBlock (ivb : Vector Byte 8) (n : DWord) : Vector Byte 16 :=
  tab 16 fun j => if j < 8 then nth ivb j 0 else be64Byte n (j - 8)

/-- Either digest is not valid (R90, R91). -/
def digestsMissing (s : State) : Bool := !s.dg.pwdDv || !s.dg.saltDv

end Sys2Proof.Machine
end

