-- ==== Sys2Proof/Machine/Flags.lean ====
section
/-! DEFINITION. The status and flag computations: the error codes (R102), the STATUS word (R27), the interrupt line
(R108) and the bits of HDR_RESULT (R30, R91). -/

namespace Sys2Proof.Machine

/-- The number of an error code (R102). -/
def errNumber (e : ErrCode) : BitVec 8 :=
  match e with
  | .ok => 0x00#8
  | .illegalCmd => 0x01#8
  | .paramInvalid => 0x02#8
  | .notInit => 0x03#8
  | .bufRange => 0x04#8
  | .posRange => 0x05#8
  | .digestState => 0x06#8
  | .headerInvalid => 0x07#8

/-- One bit of a register. -/
def bit (b : Bool) : BitVec 1 := BitVec.ofBool b

/-- The value of STATUS (R27): ERR in [15:8], then HDR_OK, SALT_DV, PWD_DV, DG_ACTIVE, KS_READY and BUSY down to bit
0; the reserved bits are 0 (R19). -/
def statusWord (s : State) : Word :=
  0#16 ++ errNumber s.err ++ 0#2 ++ bit s.hdrOk ++ bit s.dg.saltDv ++ bit s.dg.pwdDv ++ bit s.dg.active
    ++ bit s.ksReady ++ bit s.busy

/-- The level of the interrupt output: `(IRQ_STATUS[2:0] & IRQ_EN[2:0]) ≠ 0` (R108). -/
def State.irq (s : State) : Bool := s.irqStatus &&& s.irqEn ≠ 0#3

/-- MAGIC_BAD: `HDR[0] ≠ 0xCD` (R91). -/
def magicBad (s : State) : Bool := hdrByte s 0 != Config.magic

/-- KEYLEN_BAD: `uLE32(HDR[2..6)) ≠ zext_32(KEYLEN)` (R91). -/
def keylenFieldBad (s : State) : Bool := uLE32 (hdrSlice s 2 4) != s.cfg.keylen.setWidth 32

/-- ROUNDS_BAD: `uLE32(HDR[6..10)) ≠ ROUNDS`, as 32-bit patterns (R91). -/
def roundsFieldBad (s : State) : Bool := uLE32 (hdrSlice s 6 4) != s.cfg.rounds

/-- PWD_BAD: `HDR[10..42) ≠ PWD_DIGEST[0..32)` (R91). -/
def pwdFieldBad (s : State) : Bool := hdrSlice s 10 32 != s.dg.pwd.toList

/-- SALT_BAD: `HDR[42..74) ≠ SALT_DIGEST[0..32)` (R91). -/
def saltFieldBad (s : State) : Bool := hdrSlice s 42 32 != s.dg.salt.toList

/-- PAD_BAD: some byte of `HDR[74..128)` is not 0xCD (R91). -/
def padBad (s : State) : Bool := (hdrSlice s 74 54).any fun b => b != Config.magic

/-- The word `r` that HDR_CHECK computes (R91): SHORT alone when fewer than 128 bytes were supplied, and otherwise
every check's bit with HDR[1] in [15:8]. -/
def headerResult (s : State) (len : BitVec 9) : Word :=
  if len.toNat < Config.hdrLen then 0x00000001#32
  else 0#16 ++ hdrByte s 1 ++ 0#1 ++ bit (padBad s) ++ bit (saltFieldBad s) ++ bit (pwdFieldBad s)
    ++ bit (roundsFieldBad s) ++ bit (keylenFieldBad s) ++ bit (magicBad s) ++ 0#1

/-- `r[6:0] = 0`: every check passed (R91). -/
def headerPassed (r : Word) : Bool := r.extractLsb' 0 7 = 0#7

end Sys2Proof.Machine
end

