-- ==== Sys2Proof/Machine/RegMap.lean ====
section
/-! DEFINITION. The register window: the map of offsets (R18), the access kinds, what each register reads as and what a
write stores (R19 to R37). -/

namespace Sys2Proof.Machine

/-- The registers of the window (R18). -/
inductive Reg where
  | ctrl
  | rounds
  | cmd
  | status
  | irqEn
  | irqStatus
  | hdrResult
  | lastCmd
  | key (k : Fin 8)
  | ivb (k : Fin 2)
  | argLo
  | argHi
  | posLo
  | posHi
  | ctrLo
  | ctrHi
  | num
  | pwdDigest (k : Fin 8)
  | saltDigest (k : Fin 8)
  | hdr (k : Fin 32)
  | buf (k : Fin 64)
  deriving DecidableEq, Repr

/-- The access kinds (R18). -/
inductive Access where
  | rw
  | ro
  | wo
  | rw1c
  deriving DecidableEq, Repr

/-- The byte offset of a register in the window (R18). -/
def regOffset (r : Reg) : Nat :=
  match r with
  | .ctrl => 0x000
  | .rounds => 0x004
  | .cmd => 0x008
  | .status => 0x00C
  | .irqEn => 0x010
  | .irqStatus => 0x014
  | .hdrResult => 0x018
  | .lastCmd => 0x01C
  | .key k => 0x020 + 4 * k.val
  | .ivb k => 0x040 + 4 * k.val
  | .argLo => 0x048
  | .argHi => 0x04C
  | .posLo => 0x050
  | .posHi => 0x054
  | .ctrLo => 0x058
  | .ctrHi => 0x05C
  | .num => 0x060
  | .pwdDigest k => 0x080 + 4 * k.val
  | .saltDigest k => 0x0A0 + 4 * k.val
  | .hdr k => 0x100 + 4 * k.val
  | .buf k => 0x200 + 4 * k.val

/-- How the host may use a register (R18). -/
def regAccess (r : Reg) : Access :=
  match r with
  | .ctrl => .rw
  | .rounds => .rw
  | .cmd => .wo
  | .status => .ro
  | .irqEn => .rw
  | .irqStatus => .rw1c
  | .hdrResult => .ro
  | .lastCmd => .ro
  | .key _ => .wo
  | .ivb _ => .rw
  | .argLo => .rw
  | .argHi => .rw
  | .posLo => .ro
  | .posHi => .ro
  | .ctrLo => .ro
  | .ctrHi => .ro
  | .num => .ro
  | .pwdDigest _ => .ro
  | .saltDigest _ => .ro
  | .hdr _ => .rw
  | .buf _ => .rw

/-- Every register of the window, in the order of R18. -/
def allRegs : List Reg :=
  [.ctrl, .rounds, .cmd, .status, .irqEn, .irqStatus, .hdrResult, .lastCmd] ++ (List.finRange 8).map .key
    ++ (List.finRange 2).map .ivb ++ [.argLo, .argHi, .posLo, .posHi, .ctrLo, .ctrHi, .num]
    ++ (List.finRange 8).map .pwdDigest ++ (List.finRange 8).map .saltDigest ++ (List.finRange 32).map .hdr
    ++ (List.finRange 64).map .buf

/-- Member `i` of a register file of `n`, none past its end. -/
def fileReg (n : Nat) (mk : Fin n → Reg) (i : Nat) : Option Reg :=
  if h : i < n then some (mk ⟨i, h⟩) else none

/-- The register at word index `w` of the window, that is at offset `4w` (R18). -/
def regOfIndex (w : Nat) : Option Reg :=
  match w with
  | 0 => some .ctrl
  | 1 => some .rounds
  | 2 => some .cmd
  | 3 => some .status
  | 4 => some .irqEn
  | 5 => some .irqStatus
  | 6 => some .hdrResult
  | 7 => some .lastCmd
  | 18 => some .argLo
  | 19 => some .argHi
  | 20 => some .posLo
  | 21 => some .posHi
  | 22 => some .ctrLo
  | 23 => some .ctrHi
  | 24 => some .num
  | w =>
    if w < 16 then fileReg 8 .key (w - 8)
    else if w < 18 then fileReg 2 .ivb (w - 16)
    else if w < 32 then none
    else if w < 40 then fileReg 8 .pwdDigest (w - 32)
    else if w < 48 then fileReg 8 .saltDigest (w - 40)
    else if w < 64 then none
    else if w < 128 then fileReg 32 .hdr (w - 64)
    else fileReg 64 .buf (w - 128)

/-- The register at a byte offset; none where the offset is misaligned (R51) or unmapped (R52). -/
def regAt (off : BitVec 10) : Option Reg :=
  if off.toNat % 4 ≠ 0 then none else regOfIndex (off.toNat / 4)

/-! ### Reads -/

/-- The word that four bytes of HDR or BUF from window offset `a` up make (R20). -/
def ramWord (s : State) (a : Nat) : Word :=
  packWord (readRam s a) (readRam s (a + 1)) (readRam s (a + 2)) (readRam s (a + 3))

/-- What a register holds as the bus sees it: reserved bits 0 (R19), CMD and KEY reading 0 (R26, R23). -/
def regValue (s : State) (r : Reg) : Word :=
  match r with
  | .ctrl => s.cfg.keylen.setWidth 32
  | .rounds => s.cfg.rounds
  | .cmd => 0#32
  | .status => statusWord s
  | .irqEn => s.irqEn.setWidth 32
  | .irqStatus => s.irqStatus.setWidth 32
  | .hdrResult => s.hdrResult
  | .lastCmd => s.lastCmd
  | .key _ => 0#32
  | .ivb k => nth s.cfg.ivb k.val 0
  | .argLo => s.cfg.argLo
  | .argHi => s.cfg.argHi
  | .posLo => s.ks.pos.extractLsb' 0 32
  | .posHi => s.ks.pos.extractLsb' 32 32
  | .ctrLo => s.ks.ctr.extractLsb' 0 32
  | .ctrHi => s.ks.ctr.extractLsb' 32 32
  | .num => s.ks.num.setWidth 32
  | .pwdDigest k => digestWord s.dg.pwd k.val
  | .saltDigest k => digestWord s.dg.salt k.val
  | .hdr k => ramWord s (hdrBase + 4 * k.val)
  | .buf k => ramWord s (bufBase + 4 * k.val)

/-- The registers that a command may write: while BUSY = 1 a read of one returns an unspecified value, whichever
command is in PEND (R122; log 8: DEDUCED, safe). -/
def regVolatile (r : Reg) : Bool :=
  match r with
  | .ctrl => false
  | .rounds => false
  | .cmd => false
  | .status => false
  | .irqEn => false
  | .irqStatus => false
  | .hdrResult => true
  | .lastCmd => true
  | .key _ => false
  | .ivb _ => false
  | .argLo => false
  | .argHi => false
  | .posLo => true
  | .posHi => true
  | .ctrLo => true
  | .ctrHi => true
  | .num => true
  | .pwdDigest _ => true
  | .saltDigest _ => true
  | .hdr _ => true
  | .buf _ => true

/-- Count one free value as drawn. -/
def drawn (s : State) : State := { s with draws := s.draws + 1 }

/-- A read of a mapped register (R122, R127). It has no side effect (R54): only the model's count of drawn free
values moves. An unspecified read is free in all 32 bits, the reserved bits of NUM and HDR_RESULT too, where the spec leaves
open whether R19 or R122 holds (log 19: DESIGN CHOICE, safe). -/
def readReg (r : Reg) (s : State) : Word × State :=
  if s.busy && regVolatile r then (Config.freeWord s.draws, drawn s) else (regValue s r, s)

/-! ### Writes -/

/-- Store a word as four bytes of HDR or BUF (R20). -/
def storeRam (a : Nat) (v : Word) (s : State) : State := writeRamBytes a (le32 v) s

/-- What an accepted write does; reserved bits are dropped (R19). A write to CMD issues the command (R55); a write of 1
to a bit of IRQ_STATUS clears it (R29); an RO register is not changed (R18). -/
def storeReg (r : Reg) (v : Word) (s : State) : State :=
  match r with
  | .ctrl => { s with cfg := { s.cfg with keylen := v.extractLsb' 0 2 } }
  | .rounds => { s with cfg := { s.cfg with rounds := v } }
  | .cmd => issue v s
  | .status => s
  | .irqEn => { s with irqEn := v.extractLsb' 0 3 }
  | .irqStatus => { s with irqStatus := s.irqStatus &&& ~~~(v.extractLsb' 0 3) }
  | .hdrResult => s
  | .lastCmd => s
  | .key k => { s with cfg := { s.cfg with key := s.cfg.key.setIfInBounds k.val v } }
  | .ivb k => { s with cfg := { s.cfg with ivb := s.cfg.ivb.setIfInBounds k.val v } }
  | .argLo => { s with cfg := { s.cfg with argLo := v } }
  | .argHi => { s with cfg := { s.cfg with argHi := v } }
  | .posLo => s
  | .posHi => s
  | .ctrLo => s
  | .ctrHi => s
  | .num => s
  | .pwdDigest _ => s
  | .saltDigest _ => s
  | .hdr k => storeRam (hdrBase + 4 * k.val) v s
  | .buf k => storeRam (bufBase + 4 * k.val) v s

/-- The registers whose writes take effect while BUSY = 1 (R121). -/
def regBusyWritable (r : Reg) : Bool := r = .irqEn || r = .irqStatus

/-- Set IRQ_STATUS.WERR (R29). -/
def setWerr (s : State) : State := { s with irqStatus := s.irqStatus ||| 0b100#3 }

/-- A write to a mapped register (R121): an RO register ignores it at any time, without WERR; while BUSY = 1 a write
to any other register but IRQ_EN and IRQ_STATUS is ignored and sets WERR. -/
def writeReg (r : Reg) (v : Word) (s : State) : State :=
  if regAccess r = .ro then s
  else if s.busy && !regBusyWritable r then setWerr s
  else storeReg r v s

end Sys2Proof.Machine
end

