-- ==== Sys2Proof/Machine/Bus.lean ====
section
/-! DEFINITION. The register bus (R45 to R54): one transaction, its response, and where the window lies. -/

namespace Sys2Proof.Machine

/-- The byte offset a transaction names. -/
def reqOffset (q : BusReq) : BitVec 10 :=
  match q with
  | .read off _ => off
  | .write off _ _ _ => off

/-- A transaction that is a full word: 32 bits wide and, for a write, with every byte strobe asserted (R51). -/
def reqWhole (q : BusReq) : Bool :=
  match q with
  | .read _ size => size = .word
  | .write _ size strobes _ => size = .word && strobes = 0b1111#4

/-- The register a legal transaction reaches; none where the bus answers SLVERR (R51, R52). -/
def reqReg (q : BusReq) : Option Reg := if reqWhole q then regAt (reqOffset q) else none

/-- What a transaction answered SLVERR gets back: for a read, unspecified data (R51, R52). -/
def slverrResult (q : BusReq) (s : State) : BusResult :=
  match q with
  | .read _ _ => { resp := .slverr, data := some (Config.freeWord s.draws) }
  | .write _ _ _ _ => { resp := .slverr, data := none }

/-- An OKAY transaction on register `r`. -/
def accessReg (q : BusReq) (r : Reg) (s : State) : BusResult × State :=
  match q with
  | .read _ _ => ({ resp := .okay, data := some (readReg r s).1 }, (readReg r s).2)
  | .write _ _ _ v => ({ resp := .okay, data := none }, writeReg r v s)

/-- One bus transaction (R45): its response and the state it leaves. One answered SLVERR changes no state (R51, R52,
R106). -/
def transact (q : BusReq) (s : State) : BusResult × State :=
  match reqReg q with
  | some r => accessReg q r s
  | none => (slverrResult q s, s)

/-- The transaction that reads a whole register: `RegRead(off)` (R12). -/
def regRead (r : Reg) : BusReq := .read (BitVec.ofNat 10 (regOffset r)) .word

/-- The transaction that writes a whole register: `RegWrite(off, v)` (R12). -/
def regWrite (r : Reg) (v : Word) : BusReq := .write (BitVec.ofNat 10 (regOffset r)) .word 0b1111#4 v

/-- The window offset of a system address, with BASE the address of offset 0 (R8, R47; log 13: DESIGN CHOICE, safe); none
outside the window. -/
def windowOffset (base addr : Nat) : Option (BitVec 10) :=
  if base ≤ addr ∧ addr < base + Config.window then some (BitVec.ofNat 10 (addr - base)) else none

end Sys2Proof.Machine
end

