-- ==== Sys2Proof/Machine/Cycle.lean ====
section
/-! DEFINITION. One clock cycle (R15): reset first, then the host's transaction, then the engine. The meaning of a
decoded command is a parameter, which `step` fills with `exec`. -/

namespace Sys2Proof.Machine

/-- What reaches the machine in the coming cycle: the first entry of the inbox, and nothing past its end. -/
def cycleInput (s : State) : CycleIn := s.inbox.headD CycleIn.idle

/-- The start of a cycle: its inputs leave the inbox, and the last cycle's response is gone. -/
def takeInput (s : State) : State := { s with inbox := s.inbox.tail, resp := none }

/-- What the host gets back in a cycle in which reset is asserted. A transaction always completes (R45), and the spec
does not say with what response here: both are free (log 7: DESIGN CHOICE, safe). -/
def resetResult (bus : Option BusReq) (s : State) : Option BusResult :=
  match bus with
  | none => none
  | some (.read _ _) =>
    some { resp := if Config.freeOkay s.draws then .okay else .slverr, data := some (Config.freeWord s.draws) }
  | some (.write _ _ _ _) => some { resp := if Config.freeOkay s.draws then .okay else .slverr, data := none }

/-- A cycle with reset asserted, which has priority over everything else in it (R119). -/
def resetCycle (bus : Option BusReq) (s : State) : State :=
  { drawn (resetState s) with resp := resetResult bus s }

/-- The host's part of a cycle (R45). A transaction answered SLVERR is a fault of the host program (R51, R52); any
other leaves its response for the host. -/
def busPhase (bus : Option BusReq) (s : State) : Host.Outcome State Fault Refusal :=
  match bus with
  | none => .next s
  | some q =>
    if (transact q s).1.resp = .slverr then .fault (.slverr q (transact q s).1)
    else .next { (transact q s).2 with resp := some (transact q s).1 }

/-- `Execute(PEND)` (R56, R67): decode the word and run its command, or complete with ILLEGAL_CMD. -/
def executeWord (run : Instr → State → Host.Outcome State Fault Refusal) (w : Word) (s : State) :
    Host.Outcome State Fault Refusal :=
  match decode w with
  | .ok i => run i s
  | .error _ => raise .illegalCmd s

/-- The engine's part of a cycle: nothing while idle; one of LAT's cycles passes; in the last the command in PEND
completes, in one atomic step (R56). -/
def enginePhase (run : Instr → State → Host.Outcome State Fault Refusal) (s : State) :
    Host.Outcome State Fault Refusal :=
  match s.pend with
  | none => .next s
  | some w => if s.remaining ≤ 1 then executeWord run w s else .next { s with remaining := s.remaining - 1 }

/-- The cycle of a machine with the inputs taken. The host's transaction sees BUSY as it was when the cycle began, and
a completion comes after it, so a bit set by the completion survives a clear of the same cycle (R109). A command issued
in this cycle starts in the next (R55; log 9: DEDUCED, unsafe). -/
def clockedCycle (run : Instr → State → Host.Outcome State Fault Refusal) (bus : Option BusReq) (s : State) :
    Host.Outcome State Fault Refusal :=
  match busPhase bus s with
  | .next s' => if s.busy then enginePhase run s' else .next s'
  | .fault f => .fault f
  | .refused r => .refused r

/-- One clock cycle. -/
def cycle (run : Instr → State → Host.Outcome State Fault Refusal) (s : State) : Host.Outcome State Fault Refusal :=
  if (cycleInput s).reset then .next (resetCycle (cycleInput s).bus (takeInput s))
  else clockedCycle run (cycleInput s).bus (takeInput s)

/-- The machine with `w` in PEND, in the last cycle of its LAT. -/
def lastCycleOf (w : Word) (s : State) : State := { s with pend := some w, remaining := 1 }

/-- The inbox with an idle cycle first, so that neither reset nor the host acts in the coming cycle. Past its end an
inbox is idle already. -/
def idleFirst (inbox : List CycleIn) : List CycleIn :=
  match inbox with
  | [] => []
  | c :: rest => CycleIn.idle :: c :: rest

end Sys2Proof.Machine
end

