-- ==== Sys2Proof/Machine/Control.lean ====
section
/-! DEFINITION. NOP, INIT and CLOSE (R73 to R75). -/

namespace Sys2Proof.Machine

/-- NOP: no effect but the completion (R73). -/
def execNop (s : State) : Host.Outcome State Fault Refusal := finish s

/-- The keystream state INIT leaves: the key of `keyBytes` bytes and the IV prefix latched, position 0 (R74). -/
def initKeystream (c : ConfigRegs) : Keystream :=
  { Keystream.reset with key := keyString c (keyBytes c), ivb := ivbString c }

/-- INIT (R74). -/
def execInit (s : State) : Host.Outcome State Fault Refusal :=
  if keylenBad s.cfg then raise .paramInvalid s
  else finish { s with ks := initKeystream s.cfg }

/-- What CLOSE zeroes: the keystream state, KEY0 to KEY7 and HDR_OK (R75). -/
def forgetKey (s : State) : State :=
  { s with ks := Keystream.reset, cfg := { s.cfg with key := Vector.replicate 8 0#32 }, hdrOk := false }

/-- CLOSE (R75). -/
def execClose (s : State) : Host.Outcome State Fault Refusal := finish (forgetKey s)

end Sys2Proof.Machine
end

