-- ==== Sys2Proof/Machine/Keccak.lean ====
section
/-! DEFINITION. Keccak-f[1600], and SHA3-256 as the byte loop that the digest commands spread over several commands
(R99 to R101). -/

namespace Sys2Proof.Machine

/-- The 25 lanes; `A[x][y]` is entry `x + 5y` (R99). -/
abbrev Lanes := Vector DWord 25

/-- `A[x][y]`, indices mod 5 (R100). -/
def lane (a : Lanes) (x y : Nat) : DWord := nth a (x % 5 + 5 * (y % 5)) 0

/-- The lanes with `A[x][y] = f x y`. -/
def ofLanes (f : Nat → Nat → DWord) : Lanes := tab 25 fun i => f (i % 5) (i / 5)

/-- The number that a byte string holds, least significant byte first (R99). -/
def leNumber (bs : List Byte) : Nat :=
  match bs with
  | [] => 0
  | b :: rest => b.toNat + 256 * leNumber rest

/-- Lane `l`: `uLE64(SPONGE[8l .. 8l + 8))` (R99). -/
def laneOfBytes (v : Vector Byte 200) (l : Nat) : DWord :=
  BitVec.ofNat 64 (leNumber ((List.range 8).map fun k => nth v (8 * l + k) 0))

/-- The lanes of the 200-byte string (R99). -/
def toLanes (v : Vector Byte 200) : Lanes := tab 25 (laneOfBytes v)

/-- The 200-byte string of the lanes, by the same map (R99). -/
def fromLanes (a : Lanes) : Vector Byte 200 := tab 200 fun j => (nth a (j / 8) 0).extractLsb' (8 * (j % 8)) 8

/-- `rotl64(v, n)` (R99). -/
def rotl64 (v : DWord) (n : Nat) : DWord := v.rotateLeft n

/-- Entry `y` of a row of the table of rotation offsets, its columns `y = 0` to `y = 4` in order (R100). -/
def rowEntry (c0 c1 c2 c3 c4 y : Nat) : Nat :=
  match y with
  | 0 => c0
  | 1 => c1
  | 2 => c2
  | 3 => c3
  | _ => c4

/-- `r[x][y]` for `x, y < 5`, one row of the table an arm (R100). -/
def rotationOf (x y : Nat) : Nat :=
  match x with
  | 0 => rowEntry 0 36 3 41 18 y
  | 1 => rowEntry 1 44 10 45 2 y
  | 2 => rowEntry 62 6 43 15 61 y
  | 3 => rowEntry 28 55 25 21 56 y
  | _ => rowEntry 27 20 39 8 14 y

/-- The table of round constants, row by row as R100 prints it: `RC[i]` beside `RC[i + 12]`, `i = 0` to 11. -/
def roundConstantRows : List (Nat × Nat) :=
  [(0x1, 0x8000808B), (0x8082, 0x800000000000008B), (0x800000000000808A, 0x8000000000008089),
   (0x8000000080008000, 0x8000000000008003), (0x808B, 0x8000000000008002), (0x80000001, 0x8000000000000080)] ++
  [(0x8000000080008081, 0x800A), (0x8000000000008009, 0x800000008000000A), (0x8A, 0x8000000080008081),
   (0x88, 0x8000000000008080), (0x80008009, 0x80000001), (0x8000000A, 0x8000000080008008)]

/-- `RC[i]`, rounds 0 to 23 in order (R100). -/
def roundConstants : List Nat := roundConstantRows.map Prod.fst ++ roundConstantRows.map Prod.snd

/-- `C[x]` of θ: the sum of column `x` over its five lanes (R100). -/
def columnParity (a : Lanes) (x : Nat) : DWord := (List.range 5).foldl (fun c y => c ^^^ lane a x y) 0

/-- θ (R100): `D[x] = C[x − 1] ⊕ rotl64(C[x + 1], 1)` XORed into every lane of column `x`. -/
def thetaStep (a : Lanes) : Lanes :=
  let c : Vector DWord 5 := tab 5 (columnParity a)
  ofLanes fun x y => lane a x y ^^^ (nth c ((x + 4) % 5) 0 ^^^ rotl64 (nth c ((x + 1) % 5) 0) 1)

/-- ρ and π (R100): `B[y][2x + 3y] = rotl64(A[x][y], r[x][y])`. Lane `B[u][v]` comes from `y = u` and the `x` with
`2x + 3u = v` mod 5, which is `x = u + 3v` mod 5. -/
def rhoPiStep (a : Lanes) : Lanes :=
  ofLanes fun u v => rotl64 (lane a (u + 3 * v) u) (rotationOf ((u + 3 * v) % 5) u)

/-- χ (R100). -/
def chiStep (b : Lanes) : Lanes :=
  ofLanes fun x y => lane b x y ^^^ (~~~(lane b (x + 1) y) &&& lane b (x + 2) y)

/-- ι (R100). -/
def iotaStep (rc : DWord) (a : Lanes) : Lanes := a.setIfInBounds 0 (nth a 0 0 ^^^ rc)

/-- One round (R100). -/
def keccakRound (a : Lanes) (rc : Nat) : Lanes := iotaStep (BitVec.ofNat 64 rc) (chiStep (rhoPiStep (thetaStep a)))

/-- `Keccak_f(S)`: 24 rounds (R100). -/
def keccakF (v : Vector Byte 200) : Vector Byte 200 := fromLanes (roundConstants.foldl keccakRound (toLanes v))

/-- Absorb one message byte: XOR it in at DG_IDX, and permute when the rate block is full (R86, R101). -/
def absorbByte (sp : Sponge) (b : Byte) : Sponge :=
  let bytes := xorAt sp.bytes sp.idx.val b
  if h : sp.idx.val + 1 < 136 then { bytes := bytes, idx := ⟨sp.idx.val + 1, h⟩ }
  else { bytes := keccakF bytes, idx := 0 }

/-- Absorb the bytes in order. -/
def absorbBytes (sp : Sponge) (m : List Byte) : Sponge := m.foldl absorbByte sp

/-- Pad with 0x06 at DG_IDX and 0x80 at byte 135, permute, and take the first 32 bytes (R87, R101). -/
def spongeDigest (sp : Sponge) : Vector Byte 32 :=
  let out := keccakF (xorAt (xorAt sp.bytes sp.idx.val 0x06#8) 135 0x80#8)
  tab 32 fun i => nth out i 0

/-- `SHA3_256(M)` (R101). -/
def sha3_256 (m : List Byte) : Vector Byte 32 := spongeDigest (absorbBytes Sponge.zero m)

end Sys2Proof.Machine
end

