-- ==== Sys2Proof/Machine/Digest.lean ====
section
/-! DEFINITION. DG_INIT, DG_ABSORB, DG_FINAL_PWD and DG_FINAL_SALT (R85 to R88). -/

namespace Sys2Proof.Machine

/-- DG_INIT (R85). An open computation is discarded; the digests and their valid bits stay. -/
def execDgInit (s : State) : Host.Outcome State Fault Refusal :=
  finish { s with dg := { s.dg with sponge := Sponge.zero, active := true } }

/-- DG_ABSORB off, len (R86), its checks in the order of R105. -/
def execDgAbsorb (off : BitVec 8) (len : BitVec 9) (s : State) : Host.Outcome State Fault Refusal :=
  if !s.dg.active then raise .digestState s
  else if bufRangeBad off len then raise .bufRange s
  else finish { s with dg := { s.dg with sponge := absorbBytes s.dg.sponge (bufSlice s off.toNat len.toNat) } }

/-- What both DG_FINAL commands do besides writing their digest: SPONGE and DG_IDX zeroed, DG_ACTIVE cleared
(R87, R88). -/
def closeDigest (dg : DigestUnit) : DigestUnit := { dg with sponge := Sponge.zero, active := false }

/-- DG_FINAL_PWD (R87). -/
def execDgFinalPwd (s : State) : Host.Outcome State Fault Refusal :=
  if !s.dg.active then raise .digestState s
  else finish { s with dg := { closeDigest s.dg with pwd := spongeDigest s.dg.sponge, pwdDv := true } }

/-- DG_FINAL_SALT (R88). -/
def execDgFinalSalt (s : State) : Host.Outcome State Fault Refusal :=
  if !s.dg.active then raise .digestState s
  else finish { s with dg := { closeDigest s.dg with salt := spongeDigest s.dg.sponge, saltDv := true } }

end Sys2Proof.Machine
end

