-- ==== Sys2Proof/Machine/Header.lean ====
section
/-! DEFINITION. HDR_BUILD and HDR_CHECK (R89 to R91). -/

namespace Sys2Proof.Machine

/-- The 128-byte header of the layout of R89, from KEYLEN, ROUNDS and the two digests (R90). -/
def headerImage (c : ConfigRegs) (dg : DigestUnit) : List Byte :=
  [Config.magic, Config.version] ++ le32 (c.keylen.setWidth 32) ++ le32 c.rounds ++ dg.pwd.toList
    ++ dg.salt.toList ++ List.replicate 54 Config.magic

/-- HDR_BUILD (R90), its checks in the order of R105. -/
def execHdrBuild (s : State) : Host.Outcome State Fault Refusal :=
  if keylenBad s.cfg then raise .paramInvalid s
  else if digestsMissing s then raise .digestState s
  else finish (writeRamBytes hdrBase (headerImage s.cfg s.dg) s)

/-- What HDR_CHECK writes: HDR_RESULT and HDR_OK (R91). -/
def recordCheck (r : Word) (s : State) : State := { s with hdrResult := r, hdrOk := headerPassed r }

/-- HDR_CHECK len (R91), its checks in the order of R105. HEADER_INVALID is raised after HDR_RESULT and HDR_OK are
written, and keeps them (R104). -/
def execHdrCheck (len : BitVec 9) (s : State) : Host.Outcome State Fault Refusal :=
  if keylenBad s.cfg then raise .paramInvalid s
  else if digestsMissing s then raise .digestState s
  else if headerPassed (headerResult s len) then finish (recordCheck (headerResult s len) s)
  else raise .headerInvalid (recordCheck (headerResult s len) s)

end Sys2Proof.Machine
end

