-- ==== Sys2Proof/Machine/Aes.lean ====
section
/-! DEFINITION. The AES forward cipher (R93 to R98; log 12: DEDUCED, unsafe). -/

namespace Sys2Proof.Machine

/-- Multiplication by `x` in GF(2^8) (R93). -/
def xtime (a : Byte) : Byte := (a <<< 1) ^^^ (if a.getLsbD 7 then 0x1B#8 else 0#8)

/-- The sum over the low `k` bits of `a` of `b` times the bit's power of `x`. -/
def gfMulBits (k : Nat) (a b : Byte) : Byte :=
  match k with
  | 0 => 0#8
  | k + 1 => (if a.getLsbD 0 then b else 0#8) ^^^ gfMulBits k (a >>> 1) (xtime b)

/-- The field product `a • b`, by repeated `xtime` (R93). -/
def gfMul (a b : Byte) : Byte := gfMulBits 8 a b

/-- The S-box as the table of R94: row the high nibble, column the low nibble. -/
def sboxTable : List (List Nat) :=
  [[0x63, 0x7c, 0x77, 0x7b, 0xf2, 0x6b, 0x6f, 0xc5, 0x30, 0x01, 0x67, 0x2b, 0xfe, 0xd7, 0xab, 0x76],
   [0xca, 0x82, 0xc9, 0x7d, 0xfa, 0x59, 0x47, 0xf0, 0xad, 0xd4, 0xa2, 0xaf, 0x9c, 0xa4, 0x72, 0xc0],
   [0xb7, 0xfd, 0x93, 0x26, 0x36, 0x3f, 0xf7, 0xcc, 0x34, 0xa5, 0xe5, 0xf1, 0x71, 0xd8, 0x31, 0x15],
   [0x04, 0xc7, 0x23, 0xc3, 0x18, 0x96, 0x05, 0x9a, 0x07, 0x12, 0x80, 0xe2, 0xeb, 0x27, 0xb2, 0x75],
   [0x09, 0x83, 0x2c, 0x1a, 0x1b, 0x6e, 0x5a, 0xa0, 0x52, 0x3b, 0xd6, 0xb3, 0x29, 0xe3, 0x2f, 0x84],
   [0x53, 0xd1, 0x00, 0xed, 0x20, 0xfc, 0xb1, 0x5b, 0x6a, 0xcb, 0xbe, 0x39, 0x4a, 0x4c, 0x58, 0xcf],
   [0xd0, 0xef, 0xaa, 0xfb, 0x43, 0x4d, 0x33, 0x85, 0x45, 0xf9, 0x02, 0x7f, 0x50, 0x3c, 0x9f, 0xa8],
   [0x51, 0xa3, 0x40, 0x8f, 0x92, 0x9d, 0x38, 0xf5, 0xbc, 0xb6, 0xda, 0x21, 0x10, 0xff, 0xf3, 0xd2]] ++
  [[0xcd, 0x0c, 0x13, 0xec, 0x5f, 0x97, 0x44, 0x17, 0xc4, 0xa7, 0x7e, 0x3d, 0x64, 0x5d, 0x19, 0x73],
   [0x60, 0x81, 0x4f, 0xdc, 0x22, 0x2a, 0x90, 0x88, 0x46, 0xee, 0xb8, 0x14, 0xde, 0x5e, 0x0b, 0xdb],
   [0xe0, 0x32, 0x3a, 0x0a, 0x49, 0x06, 0x24, 0x5c, 0xc2, 0xd3, 0xac, 0x62, 0x91, 0x95, 0xe4, 0x79],
   [0xe7, 0xc8, 0x37, 0x6d, 0x8d, 0xd5, 0x4e, 0xa9, 0x6c, 0x56, 0xf4, 0xea, 0x65, 0x7a, 0xae, 0x08],
   [0xba, 0x78, 0x25, 0x2e, 0x1c, 0xa6, 0xb4, 0xc6, 0xe8, 0xdd, 0x74, 0x1f, 0x4b, 0xbd, 0x8b, 0x8a],
   [0x70, 0x3e, 0xb5, 0x66, 0x48, 0x03, 0xf6, 0x0e, 0x61, 0x35, 0x57, 0xb9, 0x86, 0xc1, 0x1d, 0x9e],
   [0xe1, 0xf8, 0x98, 0x11, 0x69, 0xd9, 0x8e, 0x94, 0x9b, 0x1e, 0x87, 0xe9, 0xce, 0x55, 0x28, 0xdf],
   [0x8c, 0xa1, 0x89, 0x0d, 0xbf, 0xe6, 0x42, 0x68, 0x41, 0x99, 0x2d, 0x0f, 0xb0, 0x54, 0xbb, 0x16]]

/-- `SBOX[a]` (R94). -/
def sbox (a : Byte) : Byte := BitVec.ofNat 8 ((sboxTable.getD (a.toNat / 16) []).getD (a.toNat % 16) 0)

/-- `SubWord`: SBOX on each byte (R96). -/
def subWord (w : Word) : Word :=
  packWord (sbox (wordByte w 0)) (sbox (wordByte w 1)) (sbox (wordByte w 2)) (sbox (wordByte w 3))

/-- `RotWord(a0, a1, a2, a3) = (a1, a2, a3, a0)` (R96). -/
def rotWord (w : Word) : Word := packWord (wordByte w 1) (wordByte w 2) (wordByte w 3) (wordByte w 0)

/-- `xtime` applied `j` times to 0x01. -/
def rconStep (j : Nat) : Byte :=
  match j with
  | 0 => 0x01#8
  | j + 1 => xtime (rconStep j)

/-- `Rcon[j]` for `j ≥ 1`: `xtime` applied `j − 1` times to 0x01 (R96). -/
def rcon (j : Nat) : Byte := rconStep (j - 1)

/-- What `w[i − Nk]` is XORed with to give `w[i]`, from `t = w[i − 1]` (R96). -/
def scheduleMix (nk i : Nat) (t : Word) : Word :=
  if i % nk = 0 then subWord (rotWord t) ^^^ packWord (rcon (i / nk)) 0 0 0
  else if nk = 8 ∧ i % nk = 4 then subWord t
  else t

/-- `count` further words of the schedule from word `i` on; `acc` holds the words so far, the newest first. -/
def expandWords (nk count i : Nat) (acc : List Word) : List Word :=
  match count with
  | 0 => acc
  | count + 1 =>
    expandWords nk count (i + 1) ((acc.getD (nk - 1) 0 ^^^ scheduleMix nk i (acc.getD 0 0)) :: acc)

/-- Nr for a key of `4·Nk` bytes: 10, 12 or 14 (R96). -/
def aesRounds (k : List Byte) : Nat := k.length / 4 + 6

/-- `KeyExpansion(K)`: the words `w[0]` to `w[4(Nr + 1) − 1]`, byte `r` of a word in its bits `8r + 7 : 8r` (R96). -/
def keyExpansion (k : List Byte) : List Word :=
  let nk := k.length / 4
  (expandWords nk (4 * (aesRounds k + 1) - nk) nk ((List.range nk).map (stringWord k)).reverse).reverse

/-- The AES state: `s[r][c]` is entry `r + 4c`, so input and output are the string as it stands (R95). -/
abbrev Block := Vector Byte 16

/-- `s[r][c]` (R95). -/
def cell (s : Block) (r c : Nat) : Byte := nth s (r + 4 * c) 0

/-- The state whose entry `s[r][c]` is `f r c`. -/
def ofCells (f : Nat → Nat → Byte) : Block := tab 16 fun j => f (j % 4) (j / 4)

/-- `SubBytes` (R97). -/
def subBytes (s : Block) : Block := ofCells fun r c => sbox (cell s r c)

/-- `ShiftRows`: row `r` rotates left by `r` places (R97). -/
def shiftRows (s : Block) : Block := ofCells fun r c => cell s r ((c + r) % 4)

/-- `MixColumns` (R97): row `r` of the new column is `2•a[r] ⊕ 3•a[r+1] ⊕ a[r+2] ⊕ a[r+3]`, rows mod 4. -/
def mixColumns (s : Block) : Block :=
  ofCells fun r c =>
    gfMul 2#8 (cell s r c) ^^^ gfMul 3#8 (cell s ((r + 1) % 4) c) ^^^ cell s ((r + 2) % 4) c
      ^^^ cell s ((r + 3) % 4) c

/-- `AddRoundKey(k)`: `s[r][c]` XORed with byte `r` of `w[4k + c]` (R97). -/
def addRoundKey (w : List Word) (k : Nat) (s : Block) : Block :=
  ofCells fun r c => cell s r c ^^^ wordByte (w.getD (4 * k + c) 0) r

/-- `count` full rounds from round `k` on (R98). -/
def fullRounds (w : List Word) (count k : Nat) (s : Block) : Block :=
  match count with
  | 0 => s
  | count + 1 => fullRounds w count (k + 1) (addRoundKey w k (mixColumns (shiftRows (subBytes s))))

/-- `AES_Encrypt(K, X)` (R98). -/
def aesEncrypt (key : List Byte) (x : Block) : Block :=
  let w := keyExpansion key
  let nr := aesRounds key
  addRoundKey w nr (shiftRows (subBytes (fullRounds w (nr - 1) 1 (addRoundKey w 0 x))))

end Sys2Proof.Machine
end

