-- ==== Sys2Proof/Machine/Keystream.lean ====
section
/-! DEFINITION. SEEK and XOR (R76 to R79) and the keystream law's `KS(q)` (R44). -/

namespace Sys2Proof.Machine

/-- `E(n) = AES_Encrypt(KS_KEY, IVB_L ‖ BE64(n))` (R44). -/
def keystreamBlock (ks : Keystream) (n : DWord) : Block := aesEncrypt ks.key (counterBlock ks.ivb n)

/-- `KS(q)`, the keystream byte of plaintext offset `q` (R44). -/
def keystreamByte (ks : Keystream) (q : Nat) : Byte :=
  nth (keystreamBlock ks (BitVec.ofNat 64 (q / 16))) (q % 16) 0

/-- The keystream state at offset `p` (R78). At a block boundary ECOUNT is zeroed, the choice of 90_conflicts.md C1
(log 15: DEDUCED, safe). -/
def seekKeystream (ks : Keystream) (p : DWord) : Keystream :=
  let blockIdx := p.toNat / 16
  if p.toNat % 16 ≠ 0 then
    { ks with
      num := BitVec.ofNat 4 (p.toNat % 16)
      ctr := BitVec.ofNat 64 (blockIdx + 1)
      ecount := keystreamBlock ks (BitVec.ofNat 64 blockIdx)
      pos := p }
  else
    { ks with
      num := 0#4
      ctr := BitVec.ofNat 64 blockIdx
      ecount := Vector.replicate 16 0#8
      pos := p }

/-- SEEK (R78), its checks in the order of R105. -/
def execSeek (s : State) : Host.Outcome State Fault Refusal :=
  if !s.ksReady then raise .notInit s
  else if seekRangeBad (seekOffset s.cfg) then raise .posRange s
  else finish { s with ks := seekKeystream s.ks (seekOffset s.cfg) }

/-- At NUM = 0, encrypt the counter block into ECOUNT and increment CTR mod 2^64 (R79, R76). -/
def refillBlock (ks : Keystream) : Keystream :=
  if ks.num = 0#4 then { ks with ecount := keystreamBlock ks ks.ctr, ctr := ks.ctr + 1 } else ks

/-- One pass of XOR's byte loop on `BUF[i]` (R79). -/
def xorByte (i : Nat) (s : State) : State :=
  let ks := refillBlock s.ks
  writeRam (bufBase + i) (bufByte s i ^^^ nth ks.ecount ks.num.toNat 0) { s with ks := { ks with num := ks.num + 1 } }

/-- XOR's byte loop over `count` bytes from `BUF[i]` up, in increasing order (R79). -/
def xorBytes (count i : Nat) (s : State) : State :=
  match count with
  | 0 => s
  | count + 1 => xorBytes count (i + 1) (xorByte i s)

/-- `POS <- POS + LEN` (R79). -/
def advancePos (len : BitVec 9) (s : State) : State :=
  { s with ks := { s.ks with pos := s.ks.pos + len.setWidth 64 } }

/-- XOR off, len (R79), its checks in the order of R105. -/
def execXor (off : BitVec 8) (len : BitVec 9) (s : State) : Host.Outcome State Fault Refusal :=
  if !s.ksReady then raise .notInit s
  else if bufRangeBad off len then raise .bufRange s
  else if xorRangeBad s.ks.pos len then raise .posRange s
  else finish (advancePos len (xorBytes len.toNat off.toNat s))

end Sys2Proof.Machine
end

