-- ==== Sys2Proof/Machine/Dispatch.lean ====
section
/-! DEFINITION. Which meaning runs a decoded command: one arm per constructor. -/

namespace Sys2Proof.Machine

/-- Execute a decoded command and complete it (R56, R67). -/
def exec (i : Instr) (s : State) : Host.Outcome State Fault Refusal :=
  match i with
  | .nop => Sys2Proof.Machine.execNop s
  | .init => Sys2Proof.Machine.execInit s
  | .seek => Sys2Proof.Machine.execSeek s
  | .xor off len => Sys2Proof.Machine.execXor off len s
  | .dgInit => Sys2Proof.Machine.execDgInit s
  | .dgAbsorb off len => Sys2Proof.Machine.execDgAbsorb off len s
  | .dgFinalPwd => Sys2Proof.Machine.execDgFinalPwd s
  | .dgFinalSalt => Sys2Proof.Machine.execDgFinalSalt s
  | .hdrBuild => Sys2Proof.Machine.execHdrBuild s
  | .hdrCheck len => Sys2Proof.Machine.execHdrCheck len s
  | .close => Sys2Proof.Machine.execClose s

end Sys2Proof.Machine
end

