-- ==== Sys2Proof/Machine/Step.lean ====
section
/-! DEFINITION. One step of the machine, a clock cycle, and how a command is placed where the next step runs it. -/

namespace Sys2Proof.Machine

/-- One step: one clock cycle (R15, R56). -/
def step (s : State) : Host.Outcome State Fault Refusal := cycle exec s

/-- `s` about to complete the command whose word is `w`: what the host's CMD write and all but the last cycle of LAT
leave (R55, R56), with no input in the coming cycle. It stands for what comes from outside the machine, which fetches
no instructions (R17, R61; log 6: DEDUCED, safe). -/
def State.withFetchWord (s : State) (nbits w : Nat) : State :=
  { lastCycleOf (BitVec.ofNat 32 (w % 2 ^ nbits)) s with inbox := idleFirst s.inbox }

end Sys2Proof.Machine
end

