-- ==== Sys2Proof/Machine/HostProgram.lean ====
section
/-! DEFINITION. Host programs (R70), the pseudo-commands (R71), and a host that runs one against the machine, a
transaction a cycle. -/

namespace Sys2Proof.Machine

/-- A line of a host program (R70). A command mnemonic is a `wr CMD`. -/
inductive HostOp where
  /-- `wr REG, v`. -/
  | wr (r : Reg) (v : Word)
  /-- `rd REG`. -/
  | rd (r : Reg)
  /-- `poll`: read STATUS until BUSY is 0. -/
  | poll
  deriving DecidableEq, Repr

/-- A command line: `wr CMD, w` with the command's word (R70). -/
def commandOp (i : Instr) : HostOp := .wr .cmd (encode i)

/-- `RUN c` (R71). -/
def runOps (i : Instr) : List HostOp := [commandOp i, .poll]

/-- `SEEKTO p` (R71). -/
def seekToOps (p : DWord) : List HostOp :=
  [.wr .argLo (p.extractLsb' 0 32), .wr .argHi (p.extractLsb' 32 32)] ++ runOps .seek

/-- `LOADKEY K`, for K of 16, 24 or 32 bytes (R71). -/
def loadKeyOps (k : List Byte) : List HostOp :=
  (List.range (k.length / 4)).map fun j => .wr (.key (Fin.ofNat 8 j)) (stringWord k j)

/-- `LOADIVB B`, for B of 8 bytes (R71). -/
def loadIvbOps (b : List Byte) : List HostOp := [.wr (.ivb 0) (stringWord b 0), .wr (.ivb 1) (stringWord b 1)]

/-- The chunks of at most 256 bytes of a message, in order (R71). R71 leaves open where the message is cut: each chunk but
the last has 256 bytes (log 20: DESIGN CHOICE, unsafe). -/
def chunksOf (fuel : Nat) (m : List Byte) : List (List Byte) :=
  match fuel with
  | 0 => []
  | fuel + 1 => if m.isEmpty then [] else m.take Config.bufSize :: chunksOf fuel (m.drop Config.bufSize)

/-- Write BUF words 0 to ⌈n/4⌉ − 1 with an n-byte string (R71). The bytes that fill up the last word are 0
(log 11: DEDUCED, safe). -/
def loadBufOps (b : List Byte) : List HostOp :=
  (List.range ((b.length + 3) / 4)).map fun j => .wr (.buf (Fin.ofNat 64 j)) (stringWord b j)

/-- Write a chunk into BUF and absorb it (R71). -/
def absorbOps (chunk : List Byte) : List HostOp :=
  loadBufOps chunk ++ runOps (.dgAbsorb 0 (BitVec.ofNat 9 chunk.length))

/-- `DG_INIT`, every chunk of a message absorbed, and the final command (R71), for any way to cut the message into chunks
of at most 256 bytes. -/
def digestOps (final : Instr) (chunks : List (List Byte)) : List HostOp :=
  runOps .dgInit ++ chunks.flatMap absorbOps ++ runOps final

/-- `DIGEST_PWD M` (R71), cut as `chunksOf` cuts it (log 20: DESIGN CHOICE, unsafe). -/
def digestPwdOps (m : List Byte) : List HostOp := digestOps .dgFinalPwd (chunksOf m.length m)

/-- `DIGEST_SALT M` (R71), cut as `chunksOf` cuts it (log 20: DESIGN CHOICE, unsafe). -/
def digestSaltOps (m : List Byte) : List HostOp := digestOps .dgFinalSalt (chunksOf m.length m)

/-! ### The host sequence (R120) -/

/-- Write a byte string into HDR from byte 0 up; bytes that fill up its last word are 0 (log 11: DEDUCED, safe). -/
def loadHdrOps (b : List Byte) : List HostOp :=
  (List.range ((b.length + 3) / 4)).map fun j => .wr (.hdr (Fin.ofNat 32 j)) (stringWord b j)

/-- The salt as the host supplies it: at most 8 bytes (R84, R126). -/
def hostSalt (salt : List Byte) : List Byte := salt.take 8

/-- Steps 2 to 4 of R120: the parameters, the key and the IV prefix that the KDF gave, INIT, and the two digests. R120 lets
the host swap steps 3 and 4, and leaves open the order inside step 2 (log 20: DESIGN CHOICE, unsafe). -/
def bootOps (keylen : BitVec 2) (rounds : Word) (key iv pwd salt : List Byte) : List HostOp :=
  [.wr .ctrl (keylen.setWidth 32), .wr .rounds rounds] ++ loadKeyOps key ++ loadIvbOps (iv.take 8) ++ runOps .init
    ++ digestPwdOps pwd ++ digestSaltOps (hostSalt salt)

/-- Step 5 of R120 on an empty file: build the header and read its 32 words, to be stored before any ciphertext. -/
def createOps : List HostOp := runOps .hdrBuild ++ (List.range 32).map fun j => .rd (.hdr (Fin.ofNat 32 j))

/-- Step 5 of R120 on a file with content: up to 128 bytes of it into HDR, and HDR_CHECK with their count. -/
def openOps (file : List Byte) : List HostOp :=
  loadHdrOps (file.take 128) ++ runOps (.hdrCheck (BitVec.ofNat 9 (file.take 128).length))

/-- Step 6 of R120: at most 256 bytes of data at plaintext offset `p`, enciphered or deciphered in BUF. That the data is
written after the SEEK and from byte 0 of BUF up is the model's (log 20: DESIGN CHOICE, unsafe). -/
def accessOps (p : DWord) (data : List Byte) : List HostOp :=
  seekToOps p ++ loadBufOps data ++ runOps (.xor 0 (BitVec.ofNat 9 data.length))

/-- Where plaintext offset `p` lies in the file: behind the header (R83). -/
def fileOffset (p : Nat) : Nat := Config.hdrLen + p

/-- Step 7 of R120. -/
def closeOps : List HostOp := runOps .close

/-! ### A host that runs a program -/

/-- The transaction a line makes (R70). -/
def opRequest (op : HostOp) : BusReq :=
  match op with
  | .wr r v => regWrite r v
  | .rd r => regRead r
  | .poll => regRead .status

/-- A cycle in which the host makes transaction `q`. The host of a program lets no cycle pass between its transactions
(log 20: DESIGN CHOICE, unsafe). -/
def hostCycle (q : BusReq) (s : State) : Host.Outcome State Fault Refusal :=
  step { s with inbox := [{ reset := false, bus := some q }] }

/-- Whether the last transaction read a word whose bit 0 is 1: a poll of STATUS that saw BUSY = 1 (R70). -/
def sawBusy (s : State) : Bool :=
  match s.resp with
  | some { resp := _, data := some w } => w.getLsbD 0
  | _ => false

/-- The lines left after line `op` of `op :: rest` made its transaction and left the machine in `s`: a poll stays until
it reads BUSY = 0. -/
def opsLeft (op : HostOp) (rest : List HostOp) (s : State) : List HostOp :=
  if op = .poll ∧ sawBusy s then op :: rest else rest

/-- One transaction of a host program: the lines left and the machine after it. -/
def hostStep (ops : List HostOp) (s : State) : Host.Outcome (List HostOp × State) Fault Refusal :=
  match ops with
  | [] => .next ([], s)
  | op :: rest =>
    match hostCycle (opRequest op) s with
    | .next s' => .next (opsLeft op rest s', s')
    | .fault f => .fault f
    | .refused r => .refused r

/-- `n` transactions of a host program. -/
def hostRun (n : Nat) (ops : List HostOp) (s : State) : Host.Outcome (List HostOp × State) Fault Refusal :=
  match n with
  | 0 => .next (ops, s)
  | n + 1 =>
    match hostStep ops s with
    | .next (ops', s') => hostRun n ops' s'
    | .fault f => .fault f
    | .refused r => .refused r

end Sys2Proof.Machine
end

