-- ==== Sys2Proof/Machine/System.lean ====
section
/-! DEFINITION. Several instances of CTRKS (R8 N_INST, R115): each has the whole state, and they share nothing. -/

namespace Sys2Proof.Machine

/-- `n` instances; the open parameter N_INST is the argument (R8; log 13: DESIGN CHOICE, safe). The free values of Config
have no index of the instance: two instances with equal `epoch` and `draws` draw the same HDR and BUF bytes, LAT and read
data, where the spec leaves open whether they do (log 18: DESIGN CHOICE, unsafe). -/
abbrev System (n : Nat) := Vector State n

/-- Step instance `k`; the others are not touched (R115). -/
def systemStep {n : Nat} (k : Fin n) (sys : System n) : Host.Outcome (System n) Fault Refusal :=
  match step sys[k] with
  | .next s => .next (sys.set k s)
  | .fault f => .fault f
  | .refused r => .refused r

/-- Each instance drives an interrupt line of its own (R115, R108). -/
def systemIrq {n : Nat} (sys : System n) : Vector Bool n := sys.map State.irq

end Sys2Proof.Machine
end

