-- ==== Sys2Proof/Machine/Invariant.lean ====
section
/-! DEFINITION. The invariants of the machine: what every state that a run reaches satisfies. -/

namespace Sys2Proof.Machine

/-- KS_KEY has 0, 16, 24 or 32 bytes (R38). -/
def keyLengthOk (ks : Keystream) : Bool :=
  ks.key.length = 0 || ks.key.length = 16 || ks.key.length = 24 || ks.key.length = 32

/-- The reserved bits of HDR_RESULT, bit 7 and bits 31 to 16, are 0 (R30, R19). -/
def hdrResultOk (r : Word) : Bool := r &&& 0xFFFF0080#32 = 0#32

/-- A command in PEND has at least one cycle to go, and an idle engine none (R42, R56). -/
def pendingOk (s : State) : Bool := s.pend.isSome = decide (0 < s.remaining)

/-- The invariant of the machine's data: the memories in canonical form, and the three conditions above. -/
def State.wf (s : State) : Bool :=
  Memory.wf s.mem && keyLengthOk s.ks && hdrResultOk s.hdrResult && pendingOk s

/-- `KSI`, the keystream invariant (R43), with POS in its range (R32). -/
def KSI (ks : Keystream) : Prop :=
  ks.pos.toNat ≤ Config.posMax ∧
  ks.num.toNat = ks.pos.toNat % 16 ∧
  (ks.num ≠ 0#4 →
    ks.ctr.toNat = ks.pos.toNat / 16 + 1 ∧ ks.ecount = keystreamBlock ks (BitVec.ofNat 64 (ks.pos.toNat / 16))) ∧
  (ks.num = 0#4 → ks.ctr.toNat = ks.pos.toNat / 16)

/-- KSI while KS_READY = 1 (R43), and without a key the keystream state that reset and CLOSE leave (R118, R75). -/
def State.keystreamOk (s : State) : Prop :=
  (s.ksReady = true → KSI s.ks) ∧ (s.ksReady = false → s.ks = Keystream.reset)

/-- With no open computation SPONGE and DG_IDX are zero, so that no message byte lingers (R41, R87). -/
def State.digestOk (s : State) : Prop := s.dg.active = false → s.dg.sponge = Sponge.zero

end Sys2Proof.Machine
end

