-- ==== Sys2Proof/Safety.lean ====
section
/-! DEFINITION. What counts as a safe run: the host keeps to whole, aligned, mapped transactions, and no step stops. -/

namespace Sys2Proof

open Sys2Proof.Machine

/-- The host's duty of R126 in one cycle: its transaction, if it makes one, is a whole word at a mapped offset (R51,
R52). Nothing is asked of a cycle with reset asserted. -/
def dutifulInput (c : CycleIn) : Bool :=
  c.reset ||
    (match c.bus with
      | none => true
      | some q => (reqReg q).isSome)

/-- Every input still to come keeps that duty. -/
def dutifulInbox (s : State) : Bool := s.inbox.all dutifulInput

/-- `n` steps from `s` stop nowhere. -/
def SafeRun (n : Nat) (s : State) : Prop := ∃ t, Sys2Proof.core.run n s = .next t

end Sys2Proof
end

