-- ==== Sys2Proof/Certificates/Slice0/Obligations.lean ====
section
/-! DEFINITION. The statements for the provers, from the numbered rules of the spec, and the few words they are said
in. -/

namespace Sys2Proof.Claims

open Sys2Proof.Machine

/-- What the completion of a command with code `e` records (R56): the code, the word in PEND, BUSY cleared, DONE set,
ERR set on an error and kept otherwise, WERR kept. -/
def Recorded (e : ErrCode) (s t : State) : Prop :=
  t.err = e ∧ (∀ w, s.pend = some w → t.lastCmd = w) ∧ t.pend = none ∧
  t.irqStatus.getLsbD 0 = true ∧
  t.irqStatus.getLsbD 1 = (s.irqStatus.getLsbD 1 || decide (e ≠ .ok)) ∧
  t.irqStatus.getLsbD 2 = s.irqStatus.getLsbD 2

/-- What no command writes: IRQ_EN, and of the model's own fields the inbox, the last response and the two counters
(log 1, 2 and 4). -/
def SameOutside (s t : State) : Prop :=
  t.irqEn = s.irqEn ∧ t.inbox = s.inbox ∧ t.resp = s.resp ∧ t.epoch = s.epoch ∧ t.draws = s.draws

/-- Every byte of HDR and BUF reads as before. -/
def SameRam (s t : State) : Prop := ∀ a, readRam t a = readRam s a

/-- Every byte of HDR and BUF outside the `n` bytes from window offset `lo` up reads as before. -/
def SameRamBut (lo n : Nat) (s t : State) : Prop := ∀ a, ¬(lo ≤ a ∧ a < lo + n) → readRam t a = readRam s a

/-- HDR_OK and HDR_RESULT are as before. -/
def SameHdrStatus (s t : State) : Prop := t.hdrOk = s.hdrOk ∧ t.hdrResult = s.hdrResult

/-- The configuration registers, the keystream state, the digest unit, HDR_OK, HDR_RESULT, HDR and BUF are as
before. -/
def Untouched (s t : State) : Prop :=
  t.cfg = s.cfg ∧ t.ks = s.ks ∧ t.dg = s.dg ∧ SameHdrStatus s t ∧ SameRam s t

/-- The command in PEND is `i` and this is the last cycle of its LAT. -/
def Completing (s : State) (i : Instr) : Prop := ∃ w, s.pend = some w ∧ decode w = .ok i ∧ s.remaining ≤ 1

/-- Reset is asserted in the coming cycle. -/
def ResetComing (s : State) : Prop := (cycleInput s).reset = true

/-- The host writes `v` to register `r` in the coming cycle. -/
def HostWritesValue (s : State) (r : Reg) (v : Word) : Prop :=
  ∃ o z b, (cycleInput s).bus = some (.write o z b v) ∧ reqReg (.write o z b v) = some r

/-- The host writes register `r` in the coming cycle. -/
def HostWrites (s : State) (r : Reg) : Prop := ∃ v, HostWritesValue s r v

/-- The seek offset `{ARG_HI, ARG_LO}` as a number (R25). -/
def seekPos (s : State) : Nat := s.cfg.argHi.toNat * 2 ^ 32 + s.cfg.argLo.toNat

/-- Byte `j` of `KEY[0..32)` (R20, R23). -/
def keyRegByte (s : State) (j : Nat) : Byte := (nth s.cfg.key (j / 4) 0).extractLsb' (8 * (j % 4)) 8

/-- Byte `j` of `IVB[0..8)` (R20, R24). -/
def ivbRegByte (s : State) (j : Nat) : Byte := (nth s.cfg.ivb (j / 4) 0).extractLsb' (8 * (j % 4)) 8

/-- Byte `j` of `LE32(KEYLEN)` (R50). -/
def keylenByte (s : State) (j : Nat) : Byte := (s.cfg.keylen.setWidth 32 : Word).extractLsb' (8 * j) 8

/-- Byte `j` of `LE32(ROUNDS)` (R50). -/
def roundsByte (s : State) (j : Nat) : Byte := s.cfg.rounds.extractLsb' (8 * j) 8

/-- Both digests are valid and KEYLEN is not the reserved code: what HDR_BUILD and HDR_CHECK ask for (R90, R91). -/
def HeaderReady (s : State) : Prop := s.cfg.keylen ≠ 3#2 ∧ s.dg.pwdDv = true ∧ s.dg.saltDv = true

/-- The registers that a write reaches only while BUSY = 0 (R121: CMD, CTRL, ROUNDS, KEY, IVB, ARG, HDR and BUF). -/
def IdleWritable (r : Reg) : Prop :=
  r = .cmd ∨ r = .ctrl ∨ r = .rounds ∨ (∃ k, r = .key k) ∨ (∃ k, r = .ivb k) ∨ r = .argLo ∨ r = .argHi ∨
  (∃ k, r = .hdr k) ∨ (∃ k, r = .buf k)

/-- The read-only registers (R18). -/
def ReadOnly (r : Reg) : Prop :=
  r = .status ∨ r = .hdrResult ∨ r = .lastCmd ∨ r = .posLo ∨ r = .posHi ∨ r = .ctrLo ∨ r = .ctrHi ∨ r = .num ∨
  (∃ k, r = .pwdDigest k) ∨ (∃ k, r = .saltDigest k)

/-- The registers whose value a read returns while BUSY = 1 (R122). -/
def BusyReadable (r : Reg) : Prop :=
  r = .ctrl ∨ r = .rounds ∨ (∃ k, r = .ivb k) ∨ r = .argLo ∨ r = .argHi ∨ r = .irqEn ∨ r = .irqStatus ∨ r = .cmd ∨
  (∃ k, r = .key k) ∨ r = .status

/-- What a register that stores a write reads back: the reserved bits 0 (R19). -/
def readBack (r : Reg) (v : Word) : Word :=
  match r with
  | .ctrl => v &&& 0x00000003#32
  | .irqEn => v &&& 0x00000007#32
  | _ => v

/-- A transaction of the spec's that gets SLVERR: misaligned, narrow, a write with a strobe deasserted, or at one of
the four unmapped ranges (R51, R52). -/
def Illegal (q : BusReq) : Prop :=
  (reqOffset q).toNat % 4 ≠ 0 ∨
  (match q with
    | .read _ z => z ≠ .word
    | .write _ z b _ => z ≠ .word ∨ b ≠ 0b1111#4) ∨
  (0x064 ≤ (reqOffset q).toNat ∧ (reqOffset q).toNat ≤ 0x07F) ∨
  (0x0C0 ≤ (reqOffset q).toNat ∧ (reqOffset q).toNat ≤ 0x0FF) ∨
  (0x180 ≤ (reqOffset q).toNat ∧ (reqOffset q).toNat ≤ 0x1FF) ∨
  (0x300 ≤ (reqOffset q).toNat ∧ (reqOffset q).toNat ≤ 0x3FF)

/-- Some check of HDR_CHECK with LEN = `len` fails (R91). -/
def HeaderBad (s : State) (len : Nat) : Prop :=
  len < 128 ∨ hdrByte s 0 ≠ 0xCD#8 ∨ (∃ j < 4, hdrByte s (2 + j) ≠ keylenByte s j) ∨
  (∃ j < 4, hdrByte s (6 + j) ≠ roundsByte s j) ∨ (∃ j < 32, hdrByte s (10 + j) ≠ nth s.dg.pwd j 0) ∨
  (∃ j < 32, hdrByte s (42 + j) ≠ nth s.dg.salt j 0) ∨ (∃ j < 54, hdrByte s (74 + j) ≠ 0xCD#8)

/-- `e` is the first error, in the order of the table of R105, that applies to a decoded command; OK if none does. -/
def FirstError (i : Instr) (s : State) (e : ErrCode) : Prop :=
  match i with
  | .nop => e = .ok
  | .init => (s.cfg.keylen = 3#2 ∧ e = .paramInvalid) ∨ (s.cfg.keylen ≠ 3#2 ∧ e = .ok)
  | .seek =>
    (s.ks.key = [] ∧ e = .notInit) ∨ (s.ks.key ≠ [] ∧ 2 ^ 63 ≤ seekPos s ∧ e = .posRange) ∨
    (s.ks.key ≠ [] ∧ seekPos s < 2 ^ 63 ∧ e = .ok)
  | .xor off len =>
    (s.ks.key = [] ∧ e = .notInit) ∨ (s.ks.key ≠ [] ∧ 256 < off.toNat + len.toNat ∧ e = .bufRange) ∨
    (s.ks.key ≠ [] ∧ off.toNat + len.toNat ≤ 256 ∧ 2 ^ 63 - 1 < s.ks.pos.toNat + len.toNat ∧ e = .posRange) ∨
    (s.ks.key ≠ [] ∧ off.toNat + len.toNat ≤ 256 ∧ s.ks.pos.toNat + len.toNat ≤ 2 ^ 63 - 1 ∧ e = .ok)
  | .dgInit => e = .ok
  | .dgAbsorb off len =>
    (s.dg.active = false ∧ e = .digestState) ∨ (s.dg.active = true ∧ 256 < off.toNat + len.toNat ∧ e = .bufRange) ∨
    (s.dg.active = true ∧ off.toNat + len.toNat ≤ 256 ∧ e = .ok)
  | .dgFinalPwd => (s.dg.active = false ∧ e = .digestState) ∨ (s.dg.active = true ∧ e = .ok)
  | .dgFinalSalt => (s.dg.active = false ∧ e = .digestState) ∨ (s.dg.active = true ∧ e = .ok)
  | .hdrBuild =>
    (s.cfg.keylen = 3#2 ∧ e = .paramInvalid) ∨
    (s.cfg.keylen ≠ 3#2 ∧ (s.dg.pwdDv = false ∨ s.dg.saltDv = false) ∧ e = .digestState) ∨
    (HeaderReady s ∧ e = .ok)
  | .hdrCheck len =>
    (s.cfg.keylen = 3#2 ∧ e = .paramInvalid) ∨
    (s.cfg.keylen ≠ 3#2 ∧ (s.dg.pwdDv = false ∨ s.dg.saltDv = false) ∧ e = .digestState) ∨
    (HeaderReady s ∧ HeaderBad s len.toNat ∧ e = .headerInvalid) ∨ (HeaderReady s ∧ ¬HeaderBad s len.toNat ∧ e = .ok)
  | .close => e = .ok

/-- Absorb each chunk in turn: the host loads it into BUF from byte 0 up and issues DG_ABSORB 0, n (R71). -/
def absorbChunks (chunks : List (List Byte)) (s : State) : Host.Outcome State Fault Refusal :=
  match chunks with
  | [] => .next s
  | c :: rest =>
    match exec (.dgAbsorb 0 (BitVec.ofNat 9 c.length)) (writeRamBytes bufBase c s) with
    | .next t => absorbChunks rest t
    | .fault f => .fault f
    | .refused r => .refused r

end Sys2Proof.Claims

open Sys2Proof Sys2Proof.Machine Sys2Proof.Claims

/-! ### The command words -/

/-- decode and encode are inverse on the well-formed commands and the legal words (R63, R66, R67). -/
def Obligations.DecodeEncodeInverse : Prop :=
  (∀ i : Instr, i.wellFormed = true → decode (encode i) = .ok i ∧ decodeTableWord 32 (encode i).toNat = some i) ∧
  (∀ (w : Word) (i : Instr), decode w = .ok i → i.wellFormed = true ∧ encode i = w)

/-- How many words are legal, in all and per command, and that a legal word can still fail a check (R69). -/
def Obligations.LegalWordsCounted : Prop :=
  Nat.card {w : Word // ∃ i, decode w = .ok i} = 8 + 257 * 256 + 257 * 256 + 129 ∧
  8 + 257 * 256 + 257 * 256 + 129 = 131721 ∧
  (∀ i ∈ [Instr.nop, .init, .seek, .dgInit, .dgFinalPwd, .dgFinalSalt, .hdrBuild, .close], ∃! w, decode w = .ok i) ∧
  Nat.card {w : Word // ∃ off len, decode w = .ok (.xor off len)} = 257 * 256 ∧
  Nat.card {w : Word // ∃ off len, decode w = .ok (.dgAbsorb off len)} = 257 * 256 ∧
  Nat.card {w : Word // ∃ len, decode w = .ok (.hdrCheck len)} = 129 ∧
  (∃ (w : Word) (off : BitVec 8) (len : BitVec 9) (s t : State), decode w = .ok (.xor off len) ∧
    256 < off.toNat + len.toNat ∧ exec (.xor off len) s = .next t ∧ t.err = .bufRange)

/-- The illegal words are exactly the five kinds that R68 lists. -/
def Obligations.IllegalWordsAreThoseListed : Prop :=
  ∀ w : Word, (∃ e, decode w = .error e) ↔
    (0x0B ≤ (w.extractLsb' 0 8).toNat ∨ w.extractLsb' 25 7 ≠ 0#7 ∨
     ((w.extractLsb' 0 8 = 0x03#8 ∨ w.extractLsb' 0 8 = 0x05#8) ∧ 257 ≤ (w.extractLsb' 8 9).toNat) ∨
     (w.extractLsb' 0 8 = 0x09#8 ∧ (w.extractLsb' 17 8 ≠ 0#8 ∨ 129 ≤ (w.extractLsb' 8 9).toNat)) ∨
     (w.extractLsb' 0 8 ≠ 0x03#8 ∧ w.extractLsb' 0 8 ≠ 0x05#8 ∧ w.extractLsb' 0 8 ≠ 0x09#8 ∧
       (w.extractLsb' 8 9 ≠ 0#9 ∨ w.extractLsb' 17 8 ≠ 0#8)))

/-- The word of each command as a number: `(OFF << 17) | (LEN << 8) | OPC` (R63, R66). -/
def Obligations.CommandWordsAsNumbers : Prop :=
  (∀ (off : BitVec 8) (len : BitVec 9),
    (encode (.xor off len)).toNat = off.toNat * 2 ^ 17 + len.toNat * 2 ^ 8 + 0x03 ∧
    (encode (.dgAbsorb off len)).toNat = off.toNat * 2 ^ 17 + len.toNat * 2 ^ 8 + 0x05 ∧
    (encode (.hdrCheck len)).toNat = len.toNat * 2 ^ 8 + 0x09) ∧
  encode .nop = 0x00000000#32 ∧ encode .init = 0x00000001#32 ∧ encode .seek = 0x00000002#32 ∧
  encode .dgInit = 0x00000004#32 ∧ encode .dgFinalPwd = 0x00000006#32 ∧ encode .dgFinalSalt = 0x00000007#32 ∧
  encode .hdrBuild = 0x00000008#32 ∧ encode .close = 0x0000000A#32

/-- The spec's example words (R72), one command of each family that has operands, and two illegal words. -/
def Obligations.ExampleWordsDecode : Prop :=
  decode 0x00001403#32 = .ok (.xor 0 20) ∧ decode 0x00090003#32 = .ok (.xor 4 256) ∧
  decode 0x00000505#32 = .ok (.dgAbsorb 0 5) ∧ decode 0x00008009#32 = .ok (.hdrCheck 128) ∧
  decode 0x00006409#32 = .ok (.hdrCheck 100) ∧ decode 0x0000000A#32 = .ok .close ∧
  decode 0x02000003#32 = .error .reservedNotZero ∧ decode 0x00000101#32 = .error .operandNotZero

/-! ### The register window -/

/-- Where each register lies (R18), and that every other offset reaches none (R51, R52). -/
def Obligations.RegisterMapOfTheWindow : Prop :=
  (∀ r : Reg, regAt (BitVec.ofNat 10 (regOffset r)) = some r ∧ regOffset r < 1024 ∧ regOffset r % 4 = 0) ∧
  (∀ off : BitVec 10, regAt off = none ↔
    off.toNat % 4 ≠ 0 ∨ (0x064 ≤ off.toNat ∧ off.toNat ≤ 0x07F) ∨ (0x0C0 ≤ off.toNat ∧ off.toNat ≤ 0x0FF) ∨
    (0x180 ≤ off.toNat ∧ off.toNat ≤ 0x1FF) ∨ (0x300 ≤ off.toNat ∧ off.toNat ≤ 0x3FF)) ∧
  regAt 0x000 = some .ctrl ∧ regAt 0x004 = some .rounds ∧ regAt 0x008 = some .cmd ∧ regAt 0x00C = some .status ∧
  regAt 0x010 = some .irqEn ∧ regAt 0x014 = some .irqStatus ∧ regAt 0x018 = some .hdrResult ∧
  regAt 0x01C = some .lastCmd ∧ regAt 0x020 = some (.key 0) ∧ regAt 0x03C = some (.key 7) ∧
  regAt 0x040 = some (.ivb 0) ∧ regAt 0x044 = some (.ivb 1) ∧ regAt 0x048 = some .argLo ∧ regAt 0x04C = some .argHi ∧
  regAt 0x050 = some .posLo ∧ regAt 0x054 = some .posHi ∧ regAt 0x058 = some .ctrLo ∧ regAt 0x05C = some .ctrHi ∧
  regAt 0x060 = some .num ∧ regAt 0x080 = some (.pwdDigest 0) ∧ regAt 0x09C = some (.pwdDigest 7) ∧
  regAt 0x0A0 = some (.saltDigest 0) ∧ regAt 0x0BC = some (.saltDigest 7) ∧ regAt 0x100 = some (.hdr 0) ∧
  regAt 0x17C = some (.hdr 31) ∧ regAt 0x200 = some (.buf 0) ∧ regAt 0x2FC = some (.buf 63)

/-- The bits of STATUS (R27), with the number of each error code (R102). -/
def Obligations.StatusWordFields : Prop :=
  (∀ s : State,
    (statusWord s).getLsbD 0 = s.pend.isSome ∧ (statusWord s).getLsbD 1 = decide (s.ks.key ≠ []) ∧
    (statusWord s).getLsbD 2 = s.dg.active ∧ (statusWord s).getLsbD 3 = s.dg.pwdDv ∧
    (statusWord s).getLsbD 4 = s.dg.saltDv ∧ (statusWord s).getLsbD 5 = s.hdrOk ∧
    (statusWord s).extractLsb' 6 2 = 0#2 ∧ (statusWord s).extractLsb' 8 8 = errNumber s.err ∧
    (statusWord s).extractLsb' 16 16 = 0#16 ∧
    (statusWord s).extractLsb' 8 8 ≤ 0x07#8) ∧
  errNumber .ok = 0x00#8 ∧ errNumber .illegalCmd = 0x01#8 ∧ errNumber .paramInvalid = 0x02#8 ∧
  errNumber .notInit = 0x03#8 ∧ errNumber .bufRange = 0x04#8 ∧ errNumber .posRange = 0x05#8 ∧
  errNumber .digestState = 0x06#8 ∧ errNumber .headerInvalid = 0x07#8

/-- The registers that hold byte strings hold the lowest-numbered byte in bits [7:0] (R20); POS and CTR are split with
bits [31:0] at the lower offset (R48). -/
def Obligations.RegisterWordsPackBytes : Prop :=
  ∀ s : State,
    (∀ (k : Fin 32), ∀ j < 4, (regValue s (.hdr k)).extractLsb' (8 * j) 8 = hdrByte s (4 * k.val + j)) ∧
    (∀ (k : Fin 64), ∀ j < 4, (regValue s (.buf k)).extractLsb' (8 * j) 8 = bufByte s (4 * k.val + j)) ∧
    (∀ (k : Fin 8), ∀ j < 4, (regValue s (.pwdDigest k)).extractLsb' (8 * j) 8 = nth s.dg.pwd (4 * k.val + j) 0) ∧
    (∀ (k : Fin 8), ∀ j < 4, (regValue s (.saltDigest k)).extractLsb' (8 * j) 8 = nth s.dg.salt (4 * k.val + j) 0) ∧
    (∀ (k : Fin 2), ∀ j < 4, (regValue s (.ivb k)).extractLsb' (8 * j) 8 = ivbRegByte s (4 * k.val + j)) ∧
    regValue s .posHi ++ regValue s .posLo = s.ks.pos ∧ regValue s .ctrHi ++ regValue s .ctrLo = s.ks.ctr ∧
    (regValue s .num).toNat = s.ks.num.toNat

/-- A read is OKAY and has no side effect (R54); with BUSY = 0, and with BUSY = 1 for the registers that no command
writes, it returns the register's value; for the others it returns the free value (R122), in all its bits, which is the model's
choice (log 2, log 19). -/
def Obligations.ReadsHaveNoSideEffect : Prop :=
  ∀ (s : State) (r : Reg), ∃ d,
    (transact (regRead r) s).1 = { resp := .okay, data := some d } ∧
    (transact (regRead r) s).2 = { s with draws := (transact (regRead r) s).2.draws } ∧
    ((s.busy = false ∨ BusyReadable r) → d = regValue s r ∧ (transact (regRead r) s).2 = s) ∧
    (s.busy = true → ¬BusyReadable r → d = Config.freeWord s.draws) ∧
    ((r = .cmd ∨ ∃ k, r = .key k) → d = 0#32)

/-- While BUSY = 0, a register that the host may write takes the value but for its reserved bits, and no other register
changes its value (R18, R19); the keystream waits for INIT and the digest unit is not touched (R124). KEY reads 0 and
holds the word (R23). -/
def Obligations.HostWriteReadsBack : Prop :=
  ∀ (s : State) (r : Reg) (v : Word), s.busy = false → ((IdleWritable r ∧ r ≠ .cmd) ∨ r = .irqEn) →
    (transact (regWrite r v) s).1 = { resp := .okay, data := none } ∧
    ((∀ k, r ≠ .key k) → regValue (transact (regWrite r v) s).2 r = readBack r v) ∧
    (∀ k, r = .key k → regValue (transact (regWrite r v) s).2 r = 0#32 ∧
      nth (transact (regWrite r v) s).2.cfg.key k.val 0 = v) ∧
    (∀ r', r' ≠ r → regValue (transact (regWrite r v) s).2 r' = regValue s r') ∧
    (∀ k : Fin 8, r ≠ .key k → nth (transact (regWrite r v) s).2.cfg.key k.val 0 = nth s.cfg.key k.val 0) ∧
    (transact (regWrite r v) s).2.ks = s.ks ∧ (transact (regWrite r v) s).2.dg = s.dg ∧
    (transact (regWrite r v) s).2.pend = s.pend

/-- Writes while BUSY = 1 (R121); and, at any time, writes to IRQ_EN, writes of ones to IRQ_STATUS, which clear the bits
written (R29, R54), and writes to read-only registers. -/
def Obligations.BusyWritesAreIgnored : Prop :=
  ∀ (s : State) (r : Reg) (v : Word),
    (s.busy = true → IdleWritable r →
      transact (regWrite r v) s = ({ resp := .okay, data := none }, { s with irqStatus := s.irqStatus ||| 0b100#3 })) ∧
    (r = .irqEn →
      transact (regWrite r v) s = ({ resp := .okay, data := none }, { s with irqEn := v.extractLsb' 0 3 })) ∧
    (r = .irqStatus →
      transact (regWrite r v) s =
        ({ resp := .okay, data := none }, { s with irqStatus := s.irqStatus &&& ~~~(v.extractLsb' 0 3) })) ∧
    (ReadOnly r → transact (regWrite r v) s = ({ resp := .okay, data := none }, s))

/-- The key cannot be read back: neither KEY, nor KS_KEY, nor ECOUNT, nor the open sponge shows in any read whose value
the spec gives (R113, R23, R40, R41). -/
def Obligations.KeyIsNotReadable : Prop :=
  ∀ (s : State) (key : Vector Word 8) (ksKey : List Byte) (ecount : Vector Byte 16) (sponge : Sponge) (r : Reg),
    (s.busy = false ∨ BusyReadable r) → (ksKey = [] ↔ s.ks.key = []) →
    (transact (regRead r) { s with
      cfg := { s.cfg with key := key }
      ks := { s.ks with key := ksKey, ecount := ecount }
      dg := { s.dg with sponge := sponge } }).1 = (transact (regRead r) s).1

/-- A transaction that gets SLVERR changes no state and raises no interrupt: the response alone reports it (R106). -/
def Obligations.SlverrChangesNothing : Prop :=
  ∀ (s : State) (q : BusReq), Illegal q →
    (transact q s).1.resp = .slverr ∧ (transact q s).2 = s ∧ (transact q s).2.irq = s.irq ∧
    (transact q s).2.err = s.err ∧ (transact q s).2.irqStatus = s.irqStatus

/-- A step in which the host makes such a transaction stops with a fault of the host program, as R51 and R52 tell a model
to treat it; that the run ends there is the model's choice (log 3). -/
def Obligations.SlverrIsAFaultOfTheHost : Prop :=
  ∀ (s : State) (q : BusReq) (rest : List CycleIn), Illegal q → s.inbox = { reset := false, bus := some q } :: rest →
    ∃ res, res.resp = .slverr ∧ step s = .fault (.slverr q res)

/-! ### Steps, issue and completion -/

/-- A step with the decoded command in its last cycle and no input is exec of that command, at the state with the
cycle's inputs taken; and that is how a placed word runs. -/
def Obligations.StepRunsPendingCommand : Prop :=
  (∀ (s : State) (w : Word) (i : Instr), s.pend = some w → decode w = .ok i → s.remaining ≤ 1 →
    cycleInput s = CycleIn.idle → step s = exec i { s with inbox := s.inbox.tail, resp := none }) ∧
  (∀ (s : State) (w : Nat) (i : Instr), decode (BitVec.ofNat 32 (w % 2 ^ 32)) = .ok i →
    step (s.withFetchWord 32 w) =
      exec i { s with pend := some (BitVec.ofNat 32 (w % 2 ^ 32)), remaining := 1, resp := none })

/-- A step with a legal transaction and no reset is the transaction; on a busy machine with more of LAT to go, one cycle
of LAT passes besides (R45, R56). -/
def Obligations.StepMakesTheTransaction : Prop :=
  ∀ (s : State) (q : BusReq) (rest : List CycleIn), ¬Illegal q → s.inbox = { reset := false, bus := some q } :: rest →
    (transact q { s with inbox := rest, resp := none }).1.resp = .okay ∧
    (s.pend = none → step s = .next { (transact q { s with inbox := rest, resp := none }).2 with
      resp := some (transact q { s with inbox := rest, resp := none }).1 }) ∧
    (s.pend ≠ none → 1 < s.remaining → step s = .next { (transact q { s with inbox := rest, resp := none }).2 with
      resp := some (transact q { s with inbox := rest, resp := none }).1, remaining := s.remaining - 1 })

/-- A CMD write while BUSY = 0 issues any word: PEND and BUSY, nothing else; the next transaction sees BUSY (R55). -/
def Obligations.CmdWriteIssuesAnyWord : Prop :=
  ∀ (s : State) (w : Word), s.busy = false →
    ∃ t, transact (regWrite .cmd w) s = ({ resp := .okay, data := none }, t) ∧ t.pend = some w ∧ t.busy = true ∧
      (∃ d, (transact (regRead .status) t).1.data = some d ∧ d.getLsbD 0 = true) ∧
      Untouched s t ∧ t.lastCmd = s.lastCmd ∧ t.err = s.err ∧ t.irqEn = s.irqEn ∧ t.irqStatus = s.irqStatus

/-- An illegal word completes with ILLEGAL_CMD and no other effect (R67, R68, R104). -/
def Obligations.IllegalWordCompletesWithoutEffect : Prop :=
  ∀ (s : State) (w : Word) (e : DecodeError), s.pend = some w → decode w = .error e → s.remaining ≤ 1 →
    cycleInput s = CycleIn.idle →
    ∃ t, step s = .next t ∧ Recorded .illegalCmd s t ∧ Untouched s t ∧ t.irqEn = s.irqEn

/-- Every issued command completes, after the cycles of its LAT, whatever a dutiful host does meanwhile short of reset:
the word is in LAST_CMD and DONE is set (R56, R125). -/
def Obligations.IssuedCommandCompletes : Prop :=
  ∀ (s : State) (w : Word), s.pend = some w → (∀ c ∈ s.inbox, c.reset = false ∧ dutifulInput c = true) →
    ∃ t, Sys2Proof.core.run (max 1 s.remaining) s = .next t ∧ t.pend = none ∧ t.lastCmd = w ∧
      t.irqStatus.getLsbD 0 = true ∧
      (∀ n < max 1 s.remaining, ∃ u, Sys2Proof.core.run n s = .next u ∧ u.pend = some w)

/-- Before its last cycle no intermediate state of a command is observable, and the host cannot change an operand of it:
of all the state only the interrupt registers and the model's own fields move (R57, R121). -/
def Obligations.NoIntermediateStateWhileBusy : Prop :=
  ∀ s t : State, s.busy = true → 1 < s.remaining → ¬ResetComing s → step s = .next t →
    t = { s with
      irqEn := t.irqEn, irqStatus := t.irqStatus, inbox := s.inbox.tail, resp := t.resp, draws := t.draws
      remaining := s.remaining - 1 }

/-- A command runs on the operands as they stood at its CMD write, however long its LAT is (R57). -/
def Obligations.CommandRunsOnOperandsAsIssued : Prop :=
  ∀ (s : State) (w : Word) (i : Instr), s.pend = none → decode w = .ok i →
    s.inbox = [{ reset := false, bus := some (regWrite .cmd w) }] →
    ∃ (n : Nat) (u t : State), 1 ≤ n ∧ Sys2Proof.core.run (n + 1) s = .next t ∧ exec i u = .next t ∧
      u.pend = some w ∧ Untouched s u ∧ u.lastCmd = s.lastCmd ∧ u.err = s.err ∧ u.irqEn = s.irqEn ∧
      u.irqStatus = s.irqStatus ∧ u.epoch = s.epoch

/-- `RUN c` (R71): the command and the poll end, with BUSY clear and the command's effects in place. That the host makes one
transaction in every cycle is the model's choice (log 4, log 20). -/
def Obligations.RunCommandEnds : Prop :=
  ∀ (s : State) (i : Instr), s.pend = none → i.wellFormed = true →
    ∃ (n : Nat) (u v t : State), hostRun n (runOps i) s = .next ([], t) ∧ t.pend = none ∧ t.lastCmd = encode i ∧
      u.pend = some (encode i) ∧ Untouched s u ∧ u.lastCmd = s.lastCmd ∧ u.err = s.err ∧ u.irqEn = s.irqEn ∧
      u.irqStatus = s.irqStatus ∧ exec i u = .next v ∧ Untouched v t ∧ t.err = v.err ∧ t.irqStatus = v.irqStatus ∧
      t.irqEn = s.irqEn

/-- A completion in the cycle of a write that clears IRQ_STATUS leaves its bits set (R109). -/
def Obligations.SetWinsOverClear : Prop :=
  ∀ (s : State) (w v : Word) (rest : List CycleIn), s.pend = some w → s.remaining ≤ 1 →
    s.inbox = { reset := false, bus := some (regWrite .irqStatus v) } :: rest →
    ∃ t, step s = .next t ∧ t.irqStatus.getLsbD 0 = true ∧
      t.irqStatus.getLsbD 1 = ((s.irqStatus.getLsbD 1 && !v.getLsbD 1) || decide (t.err ≠ .ok)) ∧
      t.irqStatus.getLsbD 2 = (s.irqStatus.getLsbD 2 && !v.getLsbD 2)

/-- The interrupt line is the pending bits under their enables; and a source that is pending and enabled stays so, and with
it the line asserted, until reset, a write of 1 to its bit of IRQ_STATUS or a write of 0 to its bit of IRQ_EN (R108). -/
def Obligations.IrqLineIsLevelSensitive : Prop :=
  (∀ s : State, s.irq = true ↔ ∃ k < 3, s.irqStatus.getLsbD k = true ∧ s.irqEn.getLsbD k = true) ∧
  (∀ (s t : State) (k : Nat), k < 3 → s.irqStatus.getLsbD k = true → s.irqEn.getLsbD k = true → step s = .next t →
    ¬ResetComing s → (∀ v, HostWritesValue s .irqStatus v → v.getLsbD k = false) →
    (∀ v, HostWritesValue s .irqEn v → v.getLsbD k = true) →
    t.irqStatus.getLsbD k = true ∧ t.irqEn.getLsbD k = true ∧ t.irq = true)

/-- What every register reads right after reset (R118), but for HDR and BUF, whose bytes are free (their form is the
model's, log 1). -/
def Obligations.ResetRegisterValues : Prop :=
  (∀ r : Reg, (∀ k, r ≠ .hdr k) → (∀ k, r ≠ .buf k) →
    regValue State.reset r = (if r = .ctrl then 2#32 else if r = .rounds then 5#32 else 0#32)) ∧
  State.reset.irq = false ∧ State.reset.pend = none ∧ State.reset.ks.key = [] ∧
  (∀ j < 8, nth State.reset.ks.ivb j 0 = 0#8) ∧ (∀ j < 16, nth State.reset.ks.ecount j 0 = 0#8) ∧
  (∀ j < 200, nth State.reset.dg.sponge.bytes j 0 = 0#8) ∧ State.reset.dg.sponge.idx.val = 0 ∧
  (∀ k < 8, nth State.reset.cfg.key k 0 = 0#32) ∧ (∀ a, readRam State.reset a = Config.ramByte State.reset.epoch a)

/-- Reset has priority over everything in its cycle and discards the command in PEND; HDR and BUF are drawn anew
(R119, R118). That the reset count and the inbox go on is the model's choice (log 1, log 4). -/
def Obligations.ResetDiscardsTheCommand : Prop :=
  ∀ s : State, ResetComing s →
    ∃ t, step s = .next t ∧ t.cfg = State.reset.cfg ∧ t.pend = none ∧ t.lastCmd = 0#32 ∧ t.err = .ok ∧
      t.hdrOk = false ∧ t.hdrResult = 0#32 ∧ t.irqEn = 0#3 ∧ t.irqStatus = 0#3 ∧ t.ks = State.reset.ks ∧
      t.dg = State.reset.dg ∧ (∀ a, readRam t a = Config.ramByte (s.epoch + 1) a) ∧ t.epoch = s.epoch + 1 ∧
      t.inbox = s.inbox.tail

/-- Every command, on every state, completes: no meaning faults or refuses, and what no command writes is as before
(R56, R104). -/
def Obligations.EveryCommandCompletes : Prop :=
  ∀ (i : Instr) (s : State), ∃ (t : State) (e : ErrCode), exec i s = .next t ∧ Recorded e s t ∧ SameOutside s t

/-! ### The commands -/

/-- NOP does nothing but complete (R73). -/
def Obligations.NopOnlyCompletes : Prop :=
  ∀ s : State, ∃ t, exec .nop s = .next t ∧ Recorded .ok s t ∧ SameOutside s t ∧ Untouched s t

/-- INIT latches KEY and IVB and sets the state at offset 0 (R74). -/
def Obligations.InitLatchesKeyAndPrefix : Prop :=
  ∀ s : State, s.cfg.keylen ≠ 3#2 →
    ∃ t, exec .init s = .next t ∧ Recorded .ok s t ∧ SameOutside s t ∧
      t.ks.key.length = (if s.cfg.keylen = 0#2 then 16 else if s.cfg.keylen = 1#2 then 24 else 32) ∧
      (∀ j < t.ks.key.length, t.ks.key.getD j 0 = keyRegByte s j) ∧
      (∀ j < 8, nth t.ks.ivb j 0 = ivbRegByte s j) ∧ (∀ j < 16, nth t.ks.ecount j 0 = 0#8) ∧
      t.ks.ctr = 0#64 ∧ t.ks.num = 0#4 ∧ t.ks.pos = 0#64 ∧ t.ksReady = true ∧
      t.cfg = s.cfg ∧ t.dg = s.dg ∧ SameHdrStatus s t ∧ SameRam s t

/-- CLOSE forgets the key, wherever it is kept, and the keystream state (R75). -/
def Obligations.CloseForgetsTheKey : Prop :=
  ∀ s : State, ∃ t, exec .close s = .next t ∧ Recorded .ok s t ∧ SameOutside s t ∧
    t.ks.key = [] ∧ t.ksReady = false ∧ (∀ j < 8, nth t.ks.ivb j 0 = 0#8) ∧ (∀ j < 16, nth t.ks.ecount j 0 = 0#8) ∧
    t.ks.ctr = 0#64 ∧ t.ks.num = 0#4 ∧ t.ks.pos = 0#64 ∧ (∀ k < 8, nth t.cfg.key k 0 = 0#32) ∧ t.hdrOk = false ∧
    t.cfg.keylen = s.cfg.keylen ∧ t.cfg.rounds = s.cfg.rounds ∧ t.cfg.ivb = s.cfg.ivb ∧ t.cfg.argLo = s.cfg.argLo ∧
    t.cfg.argHi = s.cfg.argHi ∧ t.dg = s.dg ∧ t.hdrResult = s.hdrResult ∧ SameRam s t

/-- SEEK sets the keystream state at the seek offset (R78). -/
def Obligations.SeekSetsTheOffset : Prop :=
  ∀ s : State, s.ksReady = true → seekPos s < 2 ^ 63 →
    ∃ t, exec .seek s = .next t ∧ Recorded .ok s t ∧ SameOutside s t ∧
      t.ks.pos.toNat = seekPos s ∧ t.ks.num.toNat = seekPos s % 16 ∧
      (seekPos s % 16 ≠ 0 → t.ks.ctr.toNat = seekPos s / 16 + 1 ∧
        t.ks.ecount = aesEncrypt s.ks.key (counterBlock s.ks.ivb (BitVec.ofNat 64 (seekPos s / 16)))) ∧
      (seekPos s % 16 = 0 → t.ks.ctr.toNat = seekPos s / 16 ∧ ∀ j < 16, nth t.ks.ecount j 0 = 0#8) ∧
      t.ks.key = s.ks.key ∧ t.ks.ivb = s.ks.ivb ∧ t.cfg = s.cfg ∧ t.dg = s.dg ∧ SameHdrStatus s t ∧ SameRam s t

/-- SEEK twice is SEEK once, its PEND held again, and SEEK reads none of the state it writes (R80). -/
def Obligations.SeekIsIdempotent : Prop :=
  (∀ (s t : State) (w : Word), s.pend = some w → s.ksReady = true → exec .seek s = .next t →
    exec .seek { t with pend := some w } = .next t) ∧
  (∀ s s' t t' : State, s.ksReady = true → seekPos s < 2 ^ 63 → s'.cfg = s.cfg → s'.ks.key = s.ks.key →
    s'.ks.ivb = s.ks.ivb → exec .seek s = .next t → exec .seek s' = .next t' → t'.ks = t.ks)

/-- XOR maps byte `i` of its range with `KS(POS + i)`, the keystream byte of the offset alone, advances POS by LEN and
keeps KSI (R79, R44, R43). -/
def Obligations.XorAppliesTheKeystreamLaw : Prop :=
  ∀ (s : State) (off : BitVec 8) (len : BitVec 9), s.ksReady = true → KSI s.ks → off.toNat + len.toNat ≤ 256 →
    s.ks.pos.toNat + len.toNat ≤ 2 ^ 63 - 1 →
    ∃ t, exec (.xor off len) s = .next t ∧ Recorded .ok s t ∧ SameOutside s t ∧
      (∀ i < len.toNat, bufByte t (off.toNat + i) =
        bufByte s (off.toNat + i) ^^^ keystreamByte s.ks (s.ks.pos.toNat + i)) ∧
      SameRamBut (bufBase + off.toNat) len.toNat s t ∧
      t.ks.pos.toNat = s.ks.pos.toNat + len.toNat ∧ KSI t.ks ∧ (len = 0 → t.ks = s.ks) ∧
      t.ks.key = s.ks.key ∧ t.ks.ivb = s.ks.ivb ∧ t.cfg = s.cfg ∧ t.dg = s.dg ∧ SameHdrStatus s t

/-- XOR, SEEK back and XOR again restore the data (R82). `u` is `t` with the old position in ARG. -/
def Obligations.XorRoundTrip : Prop :=
  ∀ (s t u v x : State) (off : BitVec 8) (len : BitVec 9), s.ksReady = true → KSI s.ks →
    off.toNat + len.toNat ≤ 256 → s.ks.pos.toNat + len.toNat ≤ 2 ^ 63 - 1 →
    exec (.xor off len) s = .next t → u.ks = t.ks → SameRam t u → seekPos u = s.ks.pos.toNat →
    exec .seek u = .next v → exec (.xor off len) v = .next x →
    x.err = .ok ∧ x.ks.pos = t.ks.pos ∧ SameRam s x

/-- Random access (R81), one XOR against one XOR: what one XOR at offsets `[q, q + ℓ)` made of the data, another XOR with
the same key and prefix, at any sub-range and after any history, turns back into the data. -/
def Obligations.RandomAccessDecrypts : Prop :=
  ∀ (s t u : State) (off off' : BitVec 8) (len len' : BitVec 9) (k : Nat), s.ksReady = true → KSI s.ks → KSI u.ks →
    u.ks.key = s.ks.key → u.ks.ivb = s.ks.ivb → exec (.xor off len) s = .next t → t.err = .ok →
    u.ks.pos.toNat = s.ks.pos.toNat + k → k + len'.toNat ≤ len.toNat → off'.toNat + len'.toNat ≤ 256 →
    (∀ i < len'.toNat, bufByte u (off'.toNat + i) = bufByte t (off.toNat + (k + i))) →
    ∃ v, exec (.xor off' len') u = .next v ∧ v.err = .ok ∧
      ∀ i < len'.toNat, bufByte v (off'.toNat + i) = bufByte s (off.toNat + (k + i))

/-- The counter block is IVB_L and then CTR, most significant byte first (R49, R33). -/
def Obligations.CounterBlockIsBigEndian : Prop :=
  ∀ (ivb : Vector Byte 8) (ctr : DWord),
    (∀ j < 8, nth (counterBlock ivb ctr) j 0 = nth ivb j 0) ∧
    (∀ j < 8, nth (counterBlock ivb ctr) (8 + j) 0 = ctr.extractLsb' (56 - 8 * j) 8) ∧
    nth (counterBlock ivb ctr) 8 0 = ctr.extractLsb' 56 8

/-- CTR stays at or below 2^59, so its increment never wraps (R76). -/
def Obligations.CounterNeverWraps : Prop :=
  ∀ ks : Keystream, KSI ks → ks.ctr.toNat ≤ 2 ^ 59 ∧ (ks.ctr + 1).toNat = ks.ctr.toNat + 1

/-- DG_INIT opens a new computation and discards an open one (R85). -/
def Obligations.DgInitOpensAComputation : Prop :=
  ∀ s : State, ∃ t, exec .dgInit s = .next t ∧ Recorded .ok s t ∧ SameOutside s t ∧
    t.dg.active = true ∧ (∀ j < 200, nth t.dg.sponge.bytes j 0 = 0#8) ∧ t.dg.sponge.idx.val = 0 ∧
    t.dg.pwd = s.dg.pwd ∧ t.dg.salt = s.dg.salt ∧ t.dg.pwdDv = s.dg.pwdDv ∧ t.dg.saltDv = s.dg.saltDv ∧
    t.cfg = s.cfg ∧ t.ks = s.ks ∧ SameHdrStatus s t ∧ SameRam s t

/-- DG_ABSORB absorbs the bytes of its range in order, each at DG_IDX, permuting when the rate block is full (R86). -/
def Obligations.DgAbsorbFollowsTheByteLoop : Prop :=
  (∀ (s : State) (off : BitVec 8) (len : BitVec 9), s.dg.active = true → off.toNat + len.toNat ≤ 256 →
    ∃ t, exec (.dgAbsorb off len) s = .next t ∧ Recorded .ok s t ∧ SameOutside s t ∧
      t.dg = { s.dg with sponge :=
        ((List.range len.toNat).map fun i => bufByte s (off.toNat + i)).foldl absorbByte s.dg.sponge } ∧
      t.cfg = s.cfg ∧ t.ks = s.ks ∧ SameHdrStatus s t ∧ SameRam s t) ∧
  (∀ (sp : Sponge) (b : Byte),
    (sp.idx.val < 135 → (absorbByte sp b).idx.val = sp.idx.val + 1 ∧
      ∀ j < 200, nth (absorbByte sp b).bytes j 0 = if j = sp.idx.val then nth sp.bytes j 0 ^^^ b else nth sp.bytes j 0) ∧
    (sp.idx.val = 135 → (absorbByte sp b).idx.val = 0 ∧ ∃ full : Vector Byte 200, (absorbByte sp b).bytes = keccakF full ∧
      ∀ j < 200, nth full j 0 = if j = 135 then nth sp.bytes j 0 ^^^ b else nth sp.bytes j 0))

/-- Absorbing a range in two pieces is absorbing it in one (R86, corner case). -/
def Obligations.AbsorbSplits : Prop :=
  ∀ (s t u v : State) (off off' : BitVec 8) (len len' len2 : BitVec 9), s.dg.active = true →
    off.toNat + len2.toNat ≤ 256 → off'.toNat = off.toNat + len.toNat → len2.toNat = len.toNat + len'.toNat →
    exec (.dgAbsorb off len) s = .next t → exec (.dgAbsorb off' len') t = .next u →
    exec (.dgAbsorb off len2) s = .next v → u.dg = v.dg

/-- DG_FINAL_PWD and DG_FINAL_SALT pad, permute, write their own digest and its valid bit, and close the computation
(R87, R88). -/
def Obligations.DgFinalsWriteTheirDigest : Prop :=
  ∀ s : State, s.dg.active = true →
    (∃ t, exec .dgFinalPwd s = .next t ∧ Recorded .ok s t ∧ SameOutside s t ∧
      (∀ j < 32, nth t.dg.pwd j 0 =
        nth (keccakF (xorAt (xorAt s.dg.sponge.bytes s.dg.sponge.idx.val 0x06#8) 135 0x80#8)) j 0) ∧
      t.dg.pwdDv = true ∧ t.dg.active = false ∧ t.dg.sponge = Sponge.zero ∧ t.dg.salt = s.dg.salt ∧
      t.dg.saltDv = s.dg.saltDv ∧ t.cfg = s.cfg ∧ t.ks = s.ks ∧ SameHdrStatus s t ∧ SameRam s t) ∧
    (∃ t, exec .dgFinalSalt s = .next t ∧ Recorded .ok s t ∧ SameOutside s t ∧
      (∀ j < 32, nth t.dg.salt j 0 =
        nth (keccakF (xorAt (xorAt s.dg.sponge.bytes s.dg.sponge.idx.val 0x06#8) 135 0x80#8)) j 0) ∧
      t.dg.saltDv = true ∧ t.dg.active = false ∧ t.dg.sponge = Sponge.zero ∧ t.dg.pwd = s.dg.pwd ∧
      t.dg.pwdDv = s.dg.pwdDv ∧ t.cfg = s.cfg ∧ t.ks = s.ks ∧ SameHdrStatus s t ∧ SameRam s t)

/-- DG_INIT, a DG_ABSORB per chunk of a message and a final command compute SHA3_256 of the message, however it is cut
into chunks (R101, R71). -/
def Obligations.DigestCommandsComputeSha3 : Prop :=
  ∀ (s : State) (chunks : List (List Byte)), (∀ c ∈ chunks, c.length ≤ 256) →
    ∃ t0 t1 t2 t3 : State, exec .dgInit s = .next t0 ∧ absorbChunks chunks t0 = .next t1 ∧
      exec .dgFinalPwd t1 = .next t2 ∧ exec .dgFinalSalt t1 = .next t3 ∧ t2.err = .ok ∧ t3.err = .ok ∧
      t2.dg.pwd = sha3_256 chunks.flatten ∧ t2.dg.pwdDv = true ∧
      t3.dg.salt = sha3_256 chunks.flatten ∧ t3.dg.saltDv = true

/-- HDR_BUILD writes the 128 bytes of the layout and nothing else (R89, R90). -/
def Obligations.HdrBuildWritesTheLayout : Prop :=
  ∀ s : State, HeaderReady s →
    ∃ t, exec .hdrBuild s = .next t ∧ Recorded .ok s t ∧ SameOutside s t ∧
      hdrByte t 0 = 0xCD#8 ∧ hdrByte t 1 = 0x01#8 ∧ (∀ j < 4, hdrByte t (2 + j) = keylenByte s j) ∧
      (∀ j < 4, hdrByte t (6 + j) = roundsByte s j) ∧ (∀ j < 32, hdrByte t (10 + j) = nth s.dg.pwd j 0) ∧
      (∀ j < 32, hdrByte t (42 + j) = nth s.dg.salt j 0) ∧ (∀ j < 54, hdrByte t (74 + j) = 0xCD#8) ∧
      SameRamBut hdrBase 128 s t ∧ t.cfg = s.cfg ∧ t.ks = s.ks ∧ t.dg = s.dg ∧ SameHdrStatus s t

/-- HDR_CHECK records every mismatch, or SHORT alone, and its outcome (R91, R30). -/
def Obligations.HdrCheckRecordsEveryMismatch : Prop :=
  ∀ (s : State) (len : BitVec 9), HeaderReady s →
    ∃ t, exec (.hdrCheck len) s = .next t ∧ SameOutside s t ∧
      (len.toNat < 128 → t.hdrResult = 0x00000001#32) ∧
      (128 ≤ len.toNat →
        t.hdrResult.getLsbD 0 = false ∧ (t.hdrResult.getLsbD 1 = true ↔ hdrByte s 0 ≠ 0xCD#8) ∧
        (t.hdrResult.getLsbD 2 = true ↔ ∃ j < 4, hdrByte s (2 + j) ≠ keylenByte s j) ∧
        (t.hdrResult.getLsbD 3 = true ↔ ∃ j < 4, hdrByte s (6 + j) ≠ roundsByte s j) ∧
        (t.hdrResult.getLsbD 4 = true ↔ ∃ j < 32, hdrByte s (10 + j) ≠ nth s.dg.pwd j 0) ∧
        (t.hdrResult.getLsbD 5 = true ↔ ∃ j < 32, hdrByte s (42 + j) ≠ nth s.dg.salt j 0) ∧
        (t.hdrResult.getLsbD 6 = true ↔ ∃ j < 54, hdrByte s (74 + j) ≠ 0xCD#8) ∧
        t.hdrResult.getLsbD 7 = false ∧ t.hdrResult.extractLsb' 8 8 = hdrByte s 1 ∧
        t.hdrResult.extractLsb' 16 16 = 0#16) ∧
      (t.hdrOk = true ↔ t.hdrResult.extractLsb' 0 7 = 0#7) ∧
      Recorded (if t.hdrOk then .ok else .headerInvalid) s t ∧
      t.cfg = s.cfg ∧ t.ks = s.ks ∧ t.dg = s.dg ∧ SameRam s t

/-- A header that HDR_BUILD built passes HDR_CHECK under the same configuration (R90, R91). -/
def Obligations.BuiltHeaderPassesItsCheck : Prop :=
  ∀ s t : State, HeaderReady s → exec .hdrBuild s = .next t →
    ∃ u, exec (.hdrCheck 128) t = .next u ∧ u.err = .ok ∧ u.hdrResult = 0x00000100#32 ∧ u.hdrOk = true

/-- A header built under one configuration fails the check under another, with the matching bit set (R92). -/
def Obligations.WrongCredentialsAreRejected : Prop :=
  ∀ s t u : State, HeaderReady s → exec .hdrBuild s = .next t → HeaderReady u →
    (∀ j < 128, hdrByte u j = hdrByte t j) →
    ∃ v, exec (.hdrCheck 128) u = .next v ∧
      (u.cfg.keylen ≠ s.cfg.keylen → v.hdrResult.getLsbD 2 = true ∧ v.err = .headerInvalid ∧ v.hdrOk = false) ∧
      (u.cfg.rounds ≠ s.cfg.rounds → v.hdrResult.getLsbD 3 = true ∧ v.err = .headerInvalid ∧ v.hdrOk = false) ∧
      (u.dg.pwd ≠ s.dg.pwd → v.hdrResult.getLsbD 4 = true ∧ v.err = .headerInvalid ∧ v.hdrOk = false) ∧
      (u.dg.salt ≠ s.dg.salt → v.hdrResult.getLsbD 5 = true ∧ v.err = .headerInvalid ∧ v.hdrOk = false)

/-! ### Errors -/

/-- A command that raises an error changes only what its completion records, and for HEADER_INVALID also HDR_RESULT and
HDR_OK (R104). -/
def Obligations.ErrorsChangeNothingElse : Prop :=
  ∀ (w : Word) (s : State), ∃ t, executeWord exec w s = .next t ∧
    (t.err ≠ .ok → Recorded t.err s t ∧ t.irqEn = s.irqEn ∧
      t.cfg = s.cfg ∧ t.ks = s.ks ∧ t.dg = s.dg ∧ SameRam s t ∧ (t.err ≠ .headerInvalid → SameHdrStatus s t))

/-- The code a command completes with is the first of the table of R105 that applies, and for an illegal word
ILLEGAL_CMD before all of them. -/
def Obligations.FirstErrorIsReported : Prop :=
  (∀ (w : Word) (s : State) (e : DecodeError), decode w = .error e →
    ∃ t, executeWord exec w s = .next t ∧ t.err = .illegalCmd) ∧
  (∀ (w : Word) (s : State) (i : Instr), decode w = .ok i →
    ∃ t, executeWord exec w s = .next t ∧ FirstError i s t.err)

/-! ### Invariants and the whole machine -/

/-- Every step keeps the memories in canonical form, the key length legal, the reserved bits of HDR_RESULT 0, and a
command in PEND with cycles to go (R38, R30, R42). -/
def Obligations.StepKeepsTheDataInvariant : Prop :=
  ∀ s t : State, s.wf = true → step s = .next t → t.wf = true

/-- Every step keeps KSI while KS_READY = 1, and without a key the keystream state zero (R43). -/
def Obligations.StepKeepsTheKeystreamInvariant : Prop :=
  ∀ s t : State, s.keystreamOk → step s = .next t → t.keystreamOk

/-- Every step keeps the sponge zero while no computation is open (R41, R87, R88). -/
def Obligations.StepKeepsAClosedSpongeZero : Prop :=
  ∀ s t : State, s.digestOk → step s = .next t → t.digestOk

/-- The three invariants hold right after reset. -/
def Obligations.ResetMeetsTheInvariants : Prop :=
  State.reset.wf = true ∧ State.reset.keystreamOk ∧ State.reset.digestOk

/-- Who writes the results: POS only INIT, SEEK, XOR, CLOSE and reset (R32); IVB_L and KS_KEY only INIT, CLOSE and reset
(R39, R38); HDR_RESULT only HDR_CHECK and reset (R30); each digest only its DG_FINAL and reset (R35); ARG, ROUNDS, KEYLEN
and each IVB word only the host's write of it and reset; each KEY word that, CLOSE and reset (R23). -/
def Obligations.OnlyTheseWriteTheResults : Prop :=
  ∀ s t : State, step s = .next t → ¬ResetComing s →
    (t.ks.pos ≠ s.ks.pos →
      Completing s .init ∨ Completing s .seek ∨ Completing s .close ∨ ∃ off len, Completing s (.xor off len)) ∧
    (t.ks.ivb ≠ s.ks.ivb ∨ t.ks.key ≠ s.ks.key → Completing s .init ∨ Completing s .close) ∧
    (t.hdrResult ≠ s.hdrResult → ∃ len, Completing s (.hdrCheck len)) ∧
    (t.dg.pwd ≠ s.dg.pwd → Completing s .dgFinalPwd) ∧
    (t.dg.salt ≠ s.dg.salt → Completing s .dgFinalSalt) ∧
    (t.cfg.keylen ≠ s.cfg.keylen → HostWrites s .ctrl) ∧ (t.cfg.rounds ≠ s.cfg.rounds → HostWrites s .rounds) ∧
    (t.cfg.argLo ≠ s.cfg.argLo → HostWrites s .argLo) ∧ (t.cfg.argHi ≠ s.cfg.argHi → HostWrites s .argHi) ∧
    (∀ k : Fin 2, nth t.cfg.ivb k.val 0 ≠ nth s.cfg.ivb k.val 0 → HostWrites s (.ivb k)) ∧
    (∀ k : Fin 8, nth t.cfg.key k.val 0 ≠ nth s.cfg.key k.val 0 → Completing s .close ∨ HostWrites s (.key k))

/-- While the host keeps to whole words at mapped offsets, no run stops (R126, R45). -/
def Obligations.DutifulHostNeverStops : Prop :=
  ∀ (s : State) (n : Nat), dutifulInbox s = true → SafeRun n s

/-- A step of one instance leaves every other as it is, its interrupt line with it (R115). -/
def Obligations.InstancesAreIndependent : Prop :=
  ∀ (n : Nat) (sys sys' : System n) (k : Fin n), systemStep k sys = .next sys' →
    (∃ s, step sys[k] = .next s ∧ sys'[k] = s) ∧
    ∀ j : Fin n, j ≠ k → sys'[j] = sys[j] ∧ (systemIrq sys')[j] = (systemIrq sys)[j]

/-! ### The primitives -/

/-- The table of R94 is the inverse in GF(2^8), 0 to 0, followed by the affine map. -/
def Obligations.SboxIsTheAffineInverse : Prop :=
  ∀ a : Byte, ∃ b : Byte, (a = 0#8 ∧ b = 0#8 ∨ gfMul a b = 1#8) ∧
    sbox a = b ^^^ b.rotateLeft 1 ^^^ b.rotateLeft 2 ^^^ b.rotateLeft 3 ^^^ b.rotateLeft 4 ^^^ 0x63#8
end

