-- ==== Sys2Proof/Laws/Bytes.lean ====
section
/-! SUPPORT. Byte strings: reading a tabulated or an updated string, and packing four bytes into a word and back. -/

namespace Sys2Proof.Machine

theorem nth_eq_getElem {α : Type} {n : Nat} (v : Vector α n) {i : Nat} (d : α) (h : i < n) : nth v i d = v[i] := by
  simp [nth, h]

@[simp] theorem nth_tab {α : Type} {n : Nat} (f : Nat → α) {i : Nat} (d : α) (h : i < n) : nth (tab n f) i d = f i := by
  simp [nth, tab, h]

theorem vector_ext_nth {α : Type} {n : Nat} {v w : Vector α n} (d : α) (h : ∀ i < n, nth v i d = nth w i d) : v = w := by
  ext i hi
  simpa [nth_eq_getElem, hi] using h i hi

theorem nth_setIfInBounds {α : Type} {n : Nat} (v : Vector α n) (i j : Nat) (x d : α) :
    nth (v.setIfInBounds i x) j d = if i = j ∧ j < n then x else nth v j d := by
  by_cases hj : j < n
  · simp [nth_eq_getElem, hj, Vector.getElem_setIfInBounds]
  · simp [nth, hj]

theorem wordByte_packWord (b0 b1 b2 b3 : Byte) :
    wordByte (packWord b0 b1 b2 b3) 0 = b0 ∧ wordByte (packWord b0 b1 b2 b3) 1 = b1 ∧
    wordByte (packWord b0 b1 b2 b3) 2 = b2 ∧ wordByte (packWord b0 b1 b2 b3) 3 = b3 := by
  refine ⟨?_, ?_, ?_, ?_⟩ <;> ext i hi <;>
    simp only [wordByte, packWord, BitVec.getElem_extractLsb', BitVec.getLsbD_append] <;>
    interval_cases i <;> simp

theorem packWord_wordByte (w : Word) : packWord (wordByte w 0) (wordByte w 1) (wordByte w 2) (wordByte w 3) = w := by
  apply BitVec.eq_of_getLsbD_eq
  intro i hi
  simp only [wordByte, packWord, BitVec.getLsbD_append, BitVec.getLsbD_extractLsb']
  interval_cases i <;> simp

@[simp] theorem uLE32_le32 (w : Word) : uLE32 (le32 w) = w := packWord_wordByte w

@[simp] theorem le32_length (w : Word) : (le32 w).length = 4 := rfl

@[simp] theorem keyString_length (c : ConfigRegs) (n : Nat) : (keyString c n).length = n := by simp [keyString]

theorem keyBytes_cases (c : ConfigRegs) : keyBytes c = 16 ∨ keyBytes c = 24 ∨ keyBytes c = 32 := by
  unfold keyBytes; split
  · simp
  · split <;> simp

end Sys2Proof.Machine
end

