-- ==== Sys2Proof/Laws/State.lean ====
section
/-! SUPPORT. What each named update of the state leaves in each field, one lemma per field per update. -/

namespace Sys2Proof.Machine

/-! Completing a command -/

@[simp] theorem complete_cfg (e : ErrCode) (s : State) : (complete e s).cfg = s.cfg := rfl
@[simp] theorem complete_pend (e : ErrCode) (s : State) : (complete e s).pend = none := rfl
@[simp] theorem complete_lastCmd (e : ErrCode) (s : State) : (complete e s).lastCmd = s.pend.getD s.lastCmd := rfl
@[simp] theorem complete_err (e : ErrCode) (s : State) : (complete e s).err = e := rfl
@[simp] theorem complete_hdrOk (e : ErrCode) (s : State) : (complete e s).hdrOk = s.hdrOk := rfl
@[simp] theorem complete_hdrResult (e : ErrCode) (s : State) : (complete e s).hdrResult = s.hdrResult := rfl
@[simp] theorem complete_irqEn (e : ErrCode) (s : State) : (complete e s).irqEn = s.irqEn := rfl
@[simp] theorem complete_irqStatus (e : ErrCode) (s : State) : (complete e s).irqStatus = s.irqStatus ||| completionIrq e := rfl
@[simp] theorem complete_ks (e : ErrCode) (s : State) : (complete e s).ks = s.ks := rfl
@[simp] theorem complete_dg (e : ErrCode) (s : State) : (complete e s).dg = s.dg := rfl
@[simp] theorem complete_mem (e : ErrCode) (s : State) : (complete e s).mem = s.mem := rfl
@[simp] theorem complete_remaining (e : ErrCode) (s : State) : (complete e s).remaining = 0 := rfl
@[simp] theorem complete_inbox (e : ErrCode) (s : State) : (complete e s).inbox = s.inbox := rfl
@[simp] theorem complete_resp (e : ErrCode) (s : State) : (complete e s).resp = s.resp := rfl
@[simp] theorem complete_epoch (e : ErrCode) (s : State) : (complete e s).epoch = s.epoch := rfl
@[simp] theorem complete_draws (e : ErrCode) (s : State) : (complete e s).draws = s.draws := rfl

/-! Issuing a command -/

@[simp] theorem issue_cfg (w : Word) (s : State) : (issue w s).cfg = s.cfg := rfl
@[simp] theorem issue_pend (w : Word) (s : State) : (issue w s).pend = some w := rfl
@[simp] theorem issue_lastCmd (w : Word) (s : State) : (issue w s).lastCmd = s.lastCmd := rfl
@[simp] theorem issue_err (w : Word) (s : State) : (issue w s).err = s.err := rfl
@[simp] theorem issue_hdrOk (w : Word) (s : State) : (issue w s).hdrOk = s.hdrOk := rfl
@[simp] theorem issue_hdrResult (w : Word) (s : State) : (issue w s).hdrResult = s.hdrResult := rfl
@[simp] theorem issue_irqEn (w : Word) (s : State) : (issue w s).irqEn = s.irqEn := rfl
@[simp] theorem issue_irqStatus (w : Word) (s : State) : (issue w s).irqStatus = s.irqStatus := rfl
@[simp] theorem issue_ks (w : Word) (s : State) : (issue w s).ks = s.ks := rfl
@[simp] theorem issue_dg (w : Word) (s : State) : (issue w s).dg = s.dg := rfl
@[simp] theorem issue_mem (w : Word) (s : State) : (issue w s).mem = s.mem := rfl
@[simp] theorem issue_remaining (w : Word) (s : State) : (issue w s).remaining = Config.latency s.draws + 1 := rfl
@[simp] theorem issue_inbox (w : Word) (s : State) : (issue w s).inbox = s.inbox := rfl
@[simp] theorem issue_resp (w : Word) (s : State) : (issue w s).resp = s.resp := rfl
@[simp] theorem issue_epoch (w : Word) (s : State) : (issue w s).epoch = s.epoch := rfl
@[simp] theorem issue_draws (w : Word) (s : State) : (issue w s).draws = s.draws + 1 := rfl

/-! Writing a byte of HDR or BUF -/

@[simp] theorem writeRam_cfg (a : Nat) (b : Byte) (s : State) : (writeRam a b s).cfg = s.cfg := rfl
@[simp] theorem writeRam_pend (a : Nat) (b : Byte) (s : State) : (writeRam a b s).pend = s.pend := rfl
@[simp] theorem writeRam_lastCmd (a : Nat) (b : Byte) (s : State) : (writeRam a b s).lastCmd = s.lastCmd := rfl
@[simp] theorem writeRam_err (a : Nat) (b : Byte) (s : State) : (writeRam a b s).err = s.err := rfl
@[simp] theorem writeRam_hdrOk (a : Nat) (b : Byte) (s : State) : (writeRam a b s).hdrOk = s.hdrOk := rfl
@[simp] theorem writeRam_hdrResult (a : Nat) (b : Byte) (s : State) : (writeRam a b s).hdrResult = s.hdrResult := rfl
@[simp] theorem writeRam_irqEn (a : Nat) (b : Byte) (s : State) : (writeRam a b s).irqEn = s.irqEn := rfl
@[simp] theorem writeRam_irqStatus (a : Nat) (b : Byte) (s : State) : (writeRam a b s).irqStatus = s.irqStatus := rfl
@[simp] theorem writeRam_ks (a : Nat) (b : Byte) (s : State) : (writeRam a b s).ks = s.ks := rfl
@[simp] theorem writeRam_dg (a : Nat) (b : Byte) (s : State) : (writeRam a b s).dg = s.dg := rfl
@[simp] theorem writeRam_mem (a : Nat) (b : Byte) (s : State) : (writeRam a b s).mem = memInsert s.mem a b := rfl
@[simp] theorem writeRam_remaining (a : Nat) (b : Byte) (s : State) : (writeRam a b s).remaining = s.remaining := rfl
@[simp] theorem writeRam_inbox (a : Nat) (b : Byte) (s : State) : (writeRam a b s).inbox = s.inbox := rfl
@[simp] theorem writeRam_resp (a : Nat) (b : Byte) (s : State) : (writeRam a b s).resp = s.resp := rfl
@[simp] theorem writeRam_epoch (a : Nat) (b : Byte) (s : State) : (writeRam a b s).epoch = s.epoch := rfl
@[simp] theorem writeRam_draws (a : Nat) (b : Byte) (s : State) : (writeRam a b s).draws = s.draws := rfl

/-! Setting WERR -/

@[simp] theorem setWerr_cfg (s : State) : (setWerr s).cfg = s.cfg := rfl
@[simp] theorem setWerr_pend (s : State) : (setWerr s).pend = s.pend := rfl
@[simp] theorem setWerr_lastCmd (s : State) : (setWerr s).lastCmd = s.lastCmd := rfl
@[simp] theorem setWerr_err (s : State) : (setWerr s).err = s.err := rfl
@[simp] theorem setWerr_hdrOk (s : State) : (setWerr s).hdrOk = s.hdrOk := rfl
@[simp] theorem setWerr_hdrResult (s : State) : (setWerr s).hdrResult = s.hdrResult := rfl
@[simp] theorem setWerr_irqEn (s : State) : (setWerr s).irqEn = s.irqEn := rfl
@[simp] theorem setWerr_irqStatus (s : State) : (setWerr s).irqStatus = s.irqStatus ||| 0b100#3 := rfl
@[simp] theorem setWerr_ks (s : State) : (setWerr s).ks = s.ks := rfl
@[simp] theorem setWerr_dg (s : State) : (setWerr s).dg = s.dg := rfl
@[simp] theorem setWerr_mem (s : State) : (setWerr s).mem = s.mem := rfl
@[simp] theorem setWerr_remaining (s : State) : (setWerr s).remaining = s.remaining := rfl
@[simp] theorem setWerr_inbox (s : State) : (setWerr s).inbox = s.inbox := rfl
@[simp] theorem setWerr_resp (s : State) : (setWerr s).resp = s.resp := rfl
@[simp] theorem setWerr_epoch (s : State) : (setWerr s).epoch = s.epoch := rfl
@[simp] theorem setWerr_draws (s : State) : (setWerr s).draws = s.draws := rfl

/-! Drawing a free value -/

@[simp] theorem drawn_cfg (s : State) : (drawn s).cfg = s.cfg := rfl
@[simp] theorem drawn_pend (s : State) : (drawn s).pend = s.pend := rfl
@[simp] theorem drawn_lastCmd (s : State) : (drawn s).lastCmd = s.lastCmd := rfl
@[simp] theorem drawn_err (s : State) : (drawn s).err = s.err := rfl
@[simp] theorem drawn_hdrOk (s : State) : (drawn s).hdrOk = s.hdrOk := rfl
@[simp] theorem drawn_hdrResult (s : State) : (drawn s).hdrResult = s.hdrResult := rfl
@[simp] theorem drawn_irqEn (s : State) : (drawn s).irqEn = s.irqEn := rfl
@[simp] theorem drawn_irqStatus (s : State) : (drawn s).irqStatus = s.irqStatus := rfl
@[simp] theorem drawn_ks (s : State) : (drawn s).ks = s.ks := rfl
@[simp] theorem drawn_dg (s : State) : (drawn s).dg = s.dg := rfl
@[simp] theorem drawn_mem (s : State) : (drawn s).mem = s.mem := rfl
@[simp] theorem drawn_remaining (s : State) : (drawn s).remaining = s.remaining := rfl
@[simp] theorem drawn_inbox (s : State) : (drawn s).inbox = s.inbox := rfl
@[simp] theorem drawn_resp (s : State) : (drawn s).resp = s.resp := rfl
@[simp] theorem drawn_epoch (s : State) : (drawn s).epoch = s.epoch := rfl
@[simp] theorem drawn_draws (s : State) : (drawn s).draws = s.draws + 1 := rfl

/-! Taking a cycle's inputs -/

@[simp] theorem takeInput_cfg (s : State) : (takeInput s).cfg = s.cfg := rfl
@[simp] theorem takeInput_pend (s : State) : (takeInput s).pend = s.pend := rfl
@[simp] theorem takeInput_lastCmd (s : State) : (takeInput s).lastCmd = s.lastCmd := rfl
@[simp] theorem takeInput_err (s : State) : (takeInput s).err = s.err := rfl
@[simp] theorem takeInput_hdrOk (s : State) : (takeInput s).hdrOk = s.hdrOk := rfl
@[simp] theorem takeInput_hdrResult (s : State) : (takeInput s).hdrResult = s.hdrResult := rfl
@[simp] theorem takeInput_irqEn (s : State) : (takeInput s).irqEn = s.irqEn := rfl
@[simp] theorem takeInput_irqStatus (s : State) : (takeInput s).irqStatus = s.irqStatus := rfl
@[simp] theorem takeInput_ks (s : State) : (takeInput s).ks = s.ks := rfl
@[simp] theorem takeInput_dg (s : State) : (takeInput s).dg = s.dg := rfl
@[simp] theorem takeInput_mem (s : State) : (takeInput s).mem = s.mem := rfl
@[simp] theorem takeInput_remaining (s : State) : (takeInput s).remaining = s.remaining := rfl
@[simp] theorem takeInput_inbox (s : State) : (takeInput s).inbox = s.inbox.tail := rfl
@[simp] theorem takeInput_resp (s : State) : (takeInput s).resp = none := rfl
@[simp] theorem takeInput_epoch (s : State) : (takeInput s).epoch = s.epoch := rfl
@[simp] theorem takeInput_draws (s : State) : (takeInput s).draws = s.draws := rfl

/-! Placing a command in its last cycle -/

@[simp] theorem lastCycleOf_cfg (w : Word) (s : State) : (lastCycleOf w s).cfg = s.cfg := rfl
@[simp] theorem lastCycleOf_pend (w : Word) (s : State) : (lastCycleOf w s).pend = some w := rfl
@[simp] theorem lastCycleOf_lastCmd (w : Word) (s : State) : (lastCycleOf w s).lastCmd = s.lastCmd := rfl
@[simp] theorem lastCycleOf_err (w : Word) (s : State) : (lastCycleOf w s).err = s.err := rfl
@[simp] theorem lastCycleOf_hdrOk (w : Word) (s : State) : (lastCycleOf w s).hdrOk = s.hdrOk := rfl
@[simp] theorem lastCycleOf_hdrResult (w : Word) (s : State) : (lastCycleOf w s).hdrResult = s.hdrResult := rfl
@[simp] theorem lastCycleOf_irqEn (w : Word) (s : State) : (lastCycleOf w s).irqEn = s.irqEn := rfl
@[simp] theorem lastCycleOf_irqStatus (w : Word) (s : State) : (lastCycleOf w s).irqStatus = s.irqStatus := rfl
@[simp] theorem lastCycleOf_ks (w : Word) (s : State) : (lastCycleOf w s).ks = s.ks := rfl
@[simp] theorem lastCycleOf_dg (w : Word) (s : State) : (lastCycleOf w s).dg = s.dg := rfl
@[simp] theorem lastCycleOf_mem (w : Word) (s : State) : (lastCycleOf w s).mem = s.mem := rfl
@[simp] theorem lastCycleOf_remaining (w : Word) (s : State) : (lastCycleOf w s).remaining = 1 := rfl
@[simp] theorem lastCycleOf_inbox (w : Word) (s : State) : (lastCycleOf w s).inbox = s.inbox := rfl
@[simp] theorem lastCycleOf_resp (w : Word) (s : State) : (lastCycleOf w s).resp = s.resp := rfl
@[simp] theorem lastCycleOf_epoch (w : Word) (s : State) : (lastCycleOf w s).epoch = s.epoch := rfl
@[simp] theorem lastCycleOf_draws (w : Word) (s : State) : (lastCycleOf w s).draws = s.draws := rfl

/-! Advancing POS -/

@[simp] theorem advancePos_cfg (len : BitVec 9) (s : State) : (advancePos len s).cfg = s.cfg := rfl
@[simp] theorem advancePos_pend (len : BitVec 9) (s : State) : (advancePos len s).pend = s.pend := rfl
@[simp] theorem advancePos_lastCmd (len : BitVec 9) (s : State) : (advancePos len s).lastCmd = s.lastCmd := rfl
@[simp] theorem advancePos_err (len : BitVec 9) (s : State) : (advancePos len s).err = s.err := rfl
@[simp] theorem advancePos_hdrOk (len : BitVec 9) (s : State) : (advancePos len s).hdrOk = s.hdrOk := rfl
@[simp] theorem advancePos_hdrResult (len : BitVec 9) (s : State) : (advancePos len s).hdrResult = s.hdrResult := rfl
@[simp] theorem advancePos_irqEn (len : BitVec 9) (s : State) : (advancePos len s).irqEn = s.irqEn := rfl
@[simp] theorem advancePos_irqStatus (len : BitVec 9) (s : State) : (advancePos len s).irqStatus = s.irqStatus := rfl
@[simp] theorem advancePos_ks (len : BitVec 9) (s : State) : (advancePos len s).ks = { s.ks with pos := s.ks.pos + len.setWidth 64 } := rfl
@[simp] theorem advancePos_dg (len : BitVec 9) (s : State) : (advancePos len s).dg = s.dg := rfl
@[simp] theorem advancePos_mem (len : BitVec 9) (s : State) : (advancePos len s).mem = s.mem := rfl
@[simp] theorem advancePos_remaining (len : BitVec 9) (s : State) : (advancePos len s).remaining = s.remaining := rfl
@[simp] theorem advancePos_inbox (len : BitVec 9) (s : State) : (advancePos len s).inbox = s.inbox := rfl
@[simp] theorem advancePos_resp (len : BitVec 9) (s : State) : (advancePos len s).resp = s.resp := rfl
@[simp] theorem advancePos_epoch (len : BitVec 9) (s : State) : (advancePos len s).epoch = s.epoch := rfl
@[simp] theorem advancePos_draws (len : BitVec 9) (s : State) : (advancePos len s).draws = s.draws := rfl

/-! Recording a header check -/

@[simp] theorem recordCheck_cfg (r : Word) (s : State) : (recordCheck r s).cfg = s.cfg := rfl
@[simp] theorem recordCheck_pend (r : Word) (s : State) : (recordCheck r s).pend = s.pend := rfl
@[simp] theorem recordCheck_lastCmd (r : Word) (s : State) : (recordCheck r s).lastCmd = s.lastCmd := rfl
@[simp] theorem recordCheck_err (r : Word) (s : State) : (recordCheck r s).err = s.err := rfl
@[simp] theorem recordCheck_hdrOk (r : Word) (s : State) : (recordCheck r s).hdrOk = headerPassed r := rfl
@[simp] theorem recordCheck_hdrResult (r : Word) (s : State) : (recordCheck r s).hdrResult = r := rfl
@[simp] theorem recordCheck_irqEn (r : Word) (s : State) : (recordCheck r s).irqEn = s.irqEn := rfl
@[simp] theorem recordCheck_irqStatus (r : Word) (s : State) : (recordCheck r s).irqStatus = s.irqStatus := rfl
@[simp] theorem recordCheck_ks (r : Word) (s : State) : (recordCheck r s).ks = s.ks := rfl
@[simp] theorem recordCheck_dg (r : Word) (s : State) : (recordCheck r s).dg = s.dg := rfl
@[simp] theorem recordCheck_mem (r : Word) (s : State) : (recordCheck r s).mem = s.mem := rfl
@[simp] theorem recordCheck_remaining (r : Word) (s : State) : (recordCheck r s).remaining = s.remaining := rfl
@[simp] theorem recordCheck_inbox (r : Word) (s : State) : (recordCheck r s).inbox = s.inbox := rfl
@[simp] theorem recordCheck_resp (r : Word) (s : State) : (recordCheck r s).resp = s.resp := rfl
@[simp] theorem recordCheck_epoch (r : Word) (s : State) : (recordCheck r s).epoch = s.epoch := rfl
@[simp] theorem recordCheck_draws (r : Word) (s : State) : (recordCheck r s).draws = s.draws := rfl

/-! CLOSE's effects -/

@[simp] theorem forgetKey_cfg (s : State) : (forgetKey s).cfg = { s.cfg with key := Vector.replicate 8 0#32 } := rfl
@[simp] theorem forgetKey_pend (s : State) : (forgetKey s).pend = s.pend := rfl
@[simp] theorem forgetKey_lastCmd (s : State) : (forgetKey s).lastCmd = s.lastCmd := rfl
@[simp] theorem forgetKey_err (s : State) : (forgetKey s).err = s.err := rfl
@[simp] theorem forgetKey_hdrOk (s : State) : (forgetKey s).hdrOk = false := rfl
@[simp] theorem forgetKey_hdrResult (s : State) : (forgetKey s).hdrResult = s.hdrResult := rfl
@[simp] theorem forgetKey_irqEn (s : State) : (forgetKey s).irqEn = s.irqEn := rfl
@[simp] theorem forgetKey_irqStatus (s : State) : (forgetKey s).irqStatus = s.irqStatus := rfl
@[simp] theorem forgetKey_ks (s : State) : (forgetKey s).ks = Keystream.reset := rfl
@[simp] theorem forgetKey_dg (s : State) : (forgetKey s).dg = s.dg := rfl
@[simp] theorem forgetKey_mem (s : State) : (forgetKey s).mem = s.mem := rfl
@[simp] theorem forgetKey_remaining (s : State) : (forgetKey s).remaining = s.remaining := rfl
@[simp] theorem forgetKey_inbox (s : State) : (forgetKey s).inbox = s.inbox := rfl
@[simp] theorem forgetKey_resp (s : State) : (forgetKey s).resp = s.resp := rfl
@[simp] theorem forgetKey_epoch (s : State) : (forgetKey s).epoch = s.epoch := rfl
@[simp] theorem forgetKey_draws (s : State) : (forgetKey s).draws = s.draws := rfl

/-! BUSY and KS_READY -/

@[simp] theorem complete_busy (e : ErrCode) (s : State) : (complete e s).busy = false := rfl
@[simp] theorem issue_busy (w : Word) (s : State) : (issue w s).busy = true := rfl
@[simp] theorem complete_ksReady (e : ErrCode) (s : State) : (complete e s).ksReady = s.ksReady := rfl
@[simp] theorem issue_ksReady (w : Word) (s : State) : (issue w s).ksReady = s.ksReady := rfl
@[simp] theorem writeRam_busy (a : Nat) (b : Byte) (s : State) : (writeRam a b s).busy = s.busy := rfl
@[simp] theorem writeRam_ksReady (a : Nat) (b : Byte) (s : State) : (writeRam a b s).ksReady = s.ksReady := rfl
@[simp] theorem setWerr_busy (s : State) : (setWerr s).busy = s.busy := rfl
@[simp] theorem setWerr_ksReady (s : State) : (setWerr s).ksReady = s.ksReady := rfl
@[simp] theorem drawn_busy (s : State) : (drawn s).busy = s.busy := rfl
@[simp] theorem drawn_ksReady (s : State) : (drawn s).ksReady = s.ksReady := rfl
@[simp] theorem takeInput_busy (s : State) : (takeInput s).busy = s.busy := rfl
@[simp] theorem takeInput_ksReady (s : State) : (takeInput s).ksReady = s.ksReady := rfl
@[simp] theorem lastCycleOf_ksReady (w : Word) (s : State) : (lastCycleOf w s).ksReady = s.ksReady := rfl
@[simp] theorem advancePos_busy (len : BitVec 9) (s : State) : (advancePos len s).busy = s.busy := rfl
@[simp] theorem recordCheck_busy (r : Word) (s : State) : (recordCheck r s).busy = s.busy := rfl
@[simp] theorem recordCheck_ksReady (r : Word) (s : State) : (recordCheck r s).ksReady = s.ksReady := rfl
@[simp] theorem forgetKey_busy (s : State) : (forgetKey s).busy = s.busy := rfl
@[simp] theorem advancePos_ksReady (len : BitVec 9) (s : State) : (advancePos len s).ksReady = s.ksReady := rfl
@[simp] theorem forgetKey_ksReady (s : State) : (forgetKey s).ksReady = false := rfl

theorem busy_eq_true_iff (s : State) : s.busy = true ↔ ∃ w, s.pend = some w := Option.isSome_iff_exists

theorem busy_eq_false_iff (s : State) : s.busy = false ↔ s.pend = none := by
  cases h : s.pend <;> simp [State.busy, h]

end Sys2Proof.Machine
end

