-- ==== Sys2Proof/Laws/Memory.lean ====
section
/-! SUPPORT. The memories: a read after a write, what a write leaves alone, and the canonical form. -/

namespace Sys2Proof.Machine

theorem memLookup_memInsert (m : Memory) (a x : Nat) (b : Byte) :
    memLookup (memInsert m a b) x = if a = x then some b else memLookup m x := by
  induction m with
  | nil => simp [memInsert, memLookup]
  | cons c m ih =>
    obtain ⟨y, c⟩ := c
    simp only [memInsert]
    split
    · simp [memLookup]
    · split
      · subst_vars; simp only [memLookup]; split <;> rfl
      · simp only [memLookup, ih]; split <;> split <;> simp_all

/-- Where a write of one byte lands, and that it lands nowhere else. -/
theorem readRam_writeRam (s : State) (a x : Nat) (b : Byte) :
    readRam (writeRam a b s) x = if a = x then b else readRam s x := by
  simp only [readRam, writeRam_mem, writeRam_epoch, memLookup_memInsert]
  split <;> simp

@[simp] theorem readRam_writeRam_same (s : State) (a : Nat) (b : Byte) : readRam (writeRam a b s) a = b := by
  simp [readRam_writeRam]

theorem readRam_writeRam_other (s : State) {a x : Nat} (b : Byte) (h : a ≠ x) :
    readRam (writeRam a b s) x = readRam s x := by simp [readRam_writeRam, h]

/-- A byte read depends on the memories and the reset count alone. -/
theorem readRam_congr {s t : State} (hm : t.mem = s.mem) (he : t.epoch = s.epoch) (a : Nat) : readRam t a = readRam s a := by
  simp [readRam, hm, he]

/-- A byte string written: its bytes in the range, everything else as before. -/
theorem readRam_writeRamBytes (bs : List Byte) (a : Nat) (s : State) (x : Nat) :
    readRam (writeRamBytes a bs s) x = if a ≤ x ∧ x < a + bs.length then bs.getD (x - a) 0 else readRam s x := by
  induction bs generalizing a s with
  | nil => simp only [writeRamBytes, List.length_nil]; rw [if_neg (by omega)]
  | cons b bs ih =>
    simp only [writeRamBytes, ih, List.length_cons]
    by_cases h1 : a + 1 ≤ x ∧ x < a + 1 + bs.length
    · rw [if_pos h1, if_pos (by omega), show x - a = (x - (a + 1)) + 1 by omega, List.getD_cons_succ]
    · rw [if_neg h1, readRam_writeRam]
      by_cases h2 : a = x
      · subst h2; simp
      · rw [if_neg h2, if_neg (by omega)]

/-- Writing a byte string changes the memories alone. -/
theorem writeRamBytes_eq (bs : List Byte) (a : Nat) (s : State) :
    writeRamBytes a bs s = { s with mem := (writeRamBytes a bs s).mem } := by
  induction bs generalizing a s with
  | nil => rfl
  | cons b bs ih => rw [writeRamBytes, ih]; rfl

/-! ### The canonical form -/

theorem memRising_cons_iff (a : Nat) (b : Byte) (m : Memory) :
    memRising ((a, b) :: m) = true ↔ (∀ c ∈ m.head?, a < c.1) ∧ memRising m = true := by
  cases m with
  | nil => simp [memRising]
  | cons c m => obtain ⟨x, y⟩ := c; simp [memRising]

theorem memInsert_head (m : Memory) (a : Nat) (b : Byte) (y : Nat) (h : ∀ c ∈ m.head?, y < c.1) (ha : y < a) :
    ∀ c ∈ (memInsert m a b).head?, y < c.1 := by
  cases m with
  | nil => simpa [memInsert] using ha
  | cons c m =>
    obtain ⟨x, z⟩ := c
    simp only [memInsert]
    split
    · simpa using ha
    · split
      · simpa using ha
      · simpa using h

/-- A write keeps the addresses rising. -/
theorem memRising_memInsert (m : Memory) (a : Nat) (b : Byte) (h : memRising m = true) :
    memRising (memInsert m a b) = true := by
  induction m with
  | nil => rfl
  | cons c m ih =>
    obtain ⟨x, y⟩ := c
    have hc := (memRising_cons_iff x y m).1 h
    simp only [memInsert]
    split
    · rename_i hlt
      exact (memRising_cons_iff a b _).2 ⟨by simpa using hlt, h⟩
    · split
      · rename_i he
        subst he
        exact (memRising_cons_iff a b m).2 hc
      · exact (memRising_cons_iff x y _).2 ⟨memInsert_head m a b x hc.1 (by omega), ih hc.2⟩

theorem memInsert_all (m : Memory) (a : Nat) (b : Byte) (p : Host.Cell → Bool) (h : m.all p = true) (hp : p (a, b) = true) :
    (memInsert m a b).all p = true := by
  induction m with
  | nil => simpa [memInsert] using hp
  | cons c m ih =>
    obtain ⟨x, y⟩ := c
    rw [List.all_cons, Bool.and_eq_true] at h
    simp only [memInsert]
    split
    · rw [List.all_cons, List.all_cons, hp, h.1, h.2]; rfl
    · split
      · rw [List.all_cons, hp, h.2]; rfl
      · rw [List.all_cons, h.1, ih h.2]; rfl

/-- Writing a byte of HDR or BUF keeps the canonical form. -/
theorem memInsert_wf (m : Memory) (a : Nat) (b : Byte) (h : Memory.wf m = true) (ha : ramAddr a = true) :
    Memory.wf (memInsert m a b) = true := by
  simp only [Memory.wf, Bool.and_eq_true] at *
  exact ⟨memRising_memInsert m a b h.1, memInsert_all m a b _ h.2 ha⟩

/-- Writing a byte string inside HDR or BUF keeps the canonical form. -/
theorem writeRamBytes_wf (bs : List Byte) (a : Nat) (s : State) (h : Memory.wf s.mem = true)
    (ha : ∀ k < bs.length, ramAddr (a + k) = true) : Memory.wf (writeRamBytes a bs s).mem = true := by
  induction bs generalizing a s with
  | nil => exact h
  | cons b bs ih =>
    refine ih (a + 1) _ (memInsert_wf _ _ _ h (ha 0 (by simp))) fun k hk => ?_
    rw [show a + 1 + k = a + (k + 1) by omega]
    exact ha (k + 1) (by simp only [List.length_cons]; omega)

theorem ramAddr_hdr {j : Nat} (h : j < 128) : ramAddr (hdrBase + j) = true := by
  simp only [ramAddr, Bool.or_eq_true, Bool.and_eq_true, decide_eq_true_eq]
  simp only [hdrBase, Config.hdrLen]; omega

theorem ramAddr_buf {i : Nat} (h : i < 256) : ramAddr (bufBase + i) = true := by
  simp only [ramAddr, Bool.or_eq_true, Bool.and_eq_true, decide_eq_true_eq]
  simp only [bufBase, Config.bufSize]; omega

/-- The reset state's memories are in canonical form. -/
theorem reset_mem_wf : Memory.wf State.reset.mem = true := rfl

end Sys2Proof.Machine
end

