-- ==== Sys2Proof/Laws/Commands.lean ====
section
/-! SUPPORT. What the meanings can do: each one's cases, and that every command completes. -/

namespace Sys2Proof.Machine

/-- INIT: PARAM_INVALID, or the keystream state at offset 0. -/
theorem execInit_cases (s : State) :
    (s.cfg.keylen = 3#2 ∧ execInit s = .next (complete .paramInvalid s)) ∨
    (s.cfg.keylen ≠ 3#2 ∧ execInit s = .next (complete .ok { s with ks := initKeystream s.cfg })) := by
  by_cases h : s.cfg.keylen = 3#2 <;> simp [execInit, keylenBad, h, raise, finish]

/-- SEEK: its two errors in their order, or the keystream state at the seek offset. -/
theorem execSeek_cases (s : State) :
    (s.ksReady = false ∧ execSeek s = .next (complete .notInit s)) ∨
    (s.ksReady = true ∧ 2 ^ 63 ≤ (seekOffset s.cfg).toNat ∧ execSeek s = .next (complete .posRange s)) ∨
    (s.ksReady = true ∧ (seekOffset s.cfg).toNat < 2 ^ 63 ∧
      execSeek s = .next (complete .ok { s with ks := seekKeystream s.ks (seekOffset s.cfg) })) := by
  cases h : s.ksReady
  · simp [execSeek, h, raise]
  · by_cases hp : 2 ^ 63 ≤ (seekOffset s.cfg).toNat
    · have hb : seekRangeBad (seekOffset s.cfg) = true := by simpa [seekRangeBad] using hp
      exact .inr (.inl ⟨rfl, hp, by simp [execSeek, h, hb, raise]⟩)
    · have hb : seekRangeBad (seekOffset s.cfg) = false := by simpa [seekRangeBad] using hp
      exact .inr (.inr ⟨rfl, by omega, by simp [execSeek, h, hb, finish]⟩)

/-- XOR: its three errors in their order, or the byte loop and the new position. -/
theorem execXor_cases (off : BitVec 8) (len : BitVec 9) (s : State) :
    (s.ksReady = false ∧ execXor off len s = .next (complete .notInit s)) ∨
    (s.ksReady = true ∧ 256 < off.toNat + len.toNat ∧ execXor off len s = .next (complete .bufRange s)) ∨
    (s.ksReady = true ∧ off.toNat + len.toNat ≤ 256 ∧ 2 ^ 63 - 1 < s.ks.pos.toNat + len.toNat ∧
      execXor off len s = .next (complete .posRange s)) ∨
    (s.ksReady = true ∧ off.toNat + len.toNat ≤ 256 ∧ s.ks.pos.toNat + len.toNat ≤ 2 ^ 63 - 1 ∧
      execXor off len s = .next (complete .ok (advancePos len (xorBytes len.toNat off.toNat s)))) := by
  cases h : s.ksReady
  · simp [execXor, h, raise]
  · by_cases hb : 256 < off.toNat + len.toNat
    · have hb' : bufRangeBad off len = true := by simpa [bufRangeBad, Config.bufSize] using hb
      exact .inr (.inl ⟨rfl, hb, by simp [execXor, h, hb', raise]⟩)
    · have hb' : bufRangeBad off len = false := by simpa [bufRangeBad, Config.bufSize] using hb
      by_cases hp : 2 ^ 63 - 1 < s.ks.pos.toNat + len.toNat
      · have hp' : xorRangeBad s.ks.pos len = true := by simpa [xorRangeBad, Config.posMax] using hp
        exact .inr (.inr (.inl ⟨rfl, by omega, hp, by simp [execXor, h, hb', hp', raise]⟩))
      · have hp' : xorRangeBad s.ks.pos len = false := by simpa [xorRangeBad, Config.posMax] using hp
        exact .inr (.inr (.inr ⟨rfl, by omega, by omega, by simp [execXor, h, hb', hp', finish]⟩))

/-- DG_ABSORB: its two errors in their order, or the range absorbed. -/
theorem execDgAbsorb_cases (off : BitVec 8) (len : BitVec 9) (s : State) :
    (s.dg.active = false ∧ execDgAbsorb off len s = .next (complete .digestState s)) ∨
    (s.dg.active = true ∧ 256 < off.toNat + len.toNat ∧ execDgAbsorb off len s = .next (complete .bufRange s)) ∨
    (s.dg.active = true ∧ off.toNat + len.toNat ≤ 256 ∧ execDgAbsorb off len s = .next (complete .ok
      { s with dg := { s.dg with sponge := absorbBytes s.dg.sponge (bufSlice s off.toNat len.toNat) } })) := by
  cases h : s.dg.active
  · simp [execDgAbsorb, h, raise]
  · by_cases hb : 256 < off.toNat + len.toNat
    · have hb' : bufRangeBad off len = true := by simpa [bufRangeBad, Config.bufSize] using hb
      exact .inr (.inl ⟨rfl, hb, by simp [execDgAbsorb, h, hb', raise]⟩)
    · have hb' : bufRangeBad off len = false := by simpa [bufRangeBad, Config.bufSize] using hb
      exact .inr (.inr ⟨rfl, by omega, by simp [execDgAbsorb, h, hb', finish]⟩)

/-- DG_FINAL_PWD: DIGEST_STATE, or the digest and the closed computation. -/
theorem execDgFinalPwd_cases (s : State) :
    (s.dg.active = false ∧ execDgFinalPwd s = .next (complete .digestState s)) ∨
    (s.dg.active = true ∧ execDgFinalPwd s = .next (complete .ok
      { s with dg := { closeDigest s.dg with pwd := spongeDigest s.dg.sponge, pwdDv := true } })) := by
  cases h : s.dg.active <;> simp [execDgFinalPwd, h, raise, finish]

/-- DG_FINAL_SALT: DIGEST_STATE, or the digest and the closed computation. -/
theorem execDgFinalSalt_cases (s : State) :
    (s.dg.active = false ∧ execDgFinalSalt s = .next (complete .digestState s)) ∨
    (s.dg.active = true ∧ execDgFinalSalt s = .next (complete .ok
      { s with dg := { closeDigest s.dg with salt := spongeDigest s.dg.sponge, saltDv := true } })) := by
  cases h : s.dg.active <;> simp [execDgFinalSalt, h, raise, finish]

/-- HDR_BUILD: its two errors in their order, or the header written. -/
theorem execHdrBuild_cases (s : State) :
    (s.cfg.keylen = 3#2 ∧ execHdrBuild s = .next (complete .paramInvalid s)) ∨
    (s.cfg.keylen ≠ 3#2 ∧ (s.dg.pwdDv = false ∨ s.dg.saltDv = false) ∧
      execHdrBuild s = .next (complete .digestState s)) ∨
    (s.cfg.keylen ≠ 3#2 ∧ s.dg.pwdDv = true ∧ s.dg.saltDv = true ∧
      execHdrBuild s = .next (complete .ok (writeRamBytes hdrBase (headerImage s.cfg s.dg) s))) := by
  by_cases h : s.cfg.keylen = 3#2
  · simp [execHdrBuild, keylenBad, h, raise]
  · cases hp : s.dg.pwdDv <;> cases hs : s.dg.saltDv <;>
      simp [execHdrBuild, keylenBad, digestsMissing, h, hp, hs, raise, finish]

/-- HDR_CHECK: its errors in their order, HEADER_INVALID keeping the result, or the header passed. -/
theorem execHdrCheck_cases (len : BitVec 9) (s : State) :
    (s.cfg.keylen = 3#2 ∧ execHdrCheck len s = .next (complete .paramInvalid s)) ∨
    (s.cfg.keylen ≠ 3#2 ∧ (s.dg.pwdDv = false ∨ s.dg.saltDv = false) ∧
      execHdrCheck len s = .next (complete .digestState s)) ∨
    (s.cfg.keylen ≠ 3#2 ∧ s.dg.pwdDv = true ∧ s.dg.saltDv = true ∧ headerPassed (headerResult s len) = false ∧
      execHdrCheck len s = .next (complete .headerInvalid (recordCheck (headerResult s len) s))) ∨
    (s.cfg.keylen ≠ 3#2 ∧ s.dg.pwdDv = true ∧ s.dg.saltDv = true ∧ headerPassed (headerResult s len) = true ∧
      execHdrCheck len s = .next (complete .ok (recordCheck (headerResult s len) s))) := by
  by_cases h : s.cfg.keylen = 3#2
  · simp [execHdrCheck, keylenBad, h, raise]
  · cases hp : s.dg.pwdDv <;> cases hs : s.dg.saltDv <;> cases hr : headerPassed (headerResult s len) <;>
      simp [execHdrCheck, keylenBad, digestsMissing, h, hp, hs, hr, raise, finish]

/-- Every command completes, whatever its operands and the state: no meaning faults or refuses. -/
theorem exec_completes (i : Instr) (s : State) : ∃ e s', exec i s = .next (complete e s') := by
  cases i with
  | nop => exact ⟨_, _, rfl⟩
  | init => rcases execInit_cases s with ⟨-, h⟩ | ⟨-, h⟩ <;> exact ⟨_, _, h⟩
  | seek => rcases execSeek_cases s with ⟨-, h⟩ | ⟨-, -, h⟩ | ⟨-, -, h⟩ <;> exact ⟨_, _, h⟩
  | xor off len =>
    rcases execXor_cases off len s with ⟨-, h⟩ | ⟨-, -, h⟩ | ⟨-, -, -, h⟩ | ⟨-, -, -, h⟩ <;> exact ⟨_, _, h⟩
  | dgInit => exact ⟨_, _, rfl⟩
  | dgAbsorb off len =>
    rcases execDgAbsorb_cases off len s with ⟨-, h⟩ | ⟨-, -, h⟩ | ⟨-, -, h⟩ <;> exact ⟨_, _, h⟩
  | dgFinalPwd => rcases execDgFinalPwd_cases s with ⟨-, h⟩ | ⟨-, h⟩ <;> exact ⟨_, _, h⟩
  | dgFinalSalt => rcases execDgFinalSalt_cases s with ⟨-, h⟩ | ⟨-, h⟩ <;> exact ⟨_, _, h⟩
  | hdrBuild =>
    rcases execHdrBuild_cases s with ⟨-, h⟩ | ⟨-, -, h⟩ | ⟨-, -, -, h⟩ <;> exact ⟨_, _, h⟩
  | hdrCheck len =>
    rcases execHdrCheck_cases len s with ⟨-, h⟩ | ⟨-, -, h⟩ | ⟨-, -, -, -, h⟩ | ⟨-, -, -, -, h⟩ <;> exact ⟨_, _, h⟩
  | close => exact ⟨_, _, rfl⟩

/-! ### XOR's byte loop -/

@[simp] theorem refillBlock_key (ks : Keystream) : (refillBlock ks).key = ks.key := by unfold refillBlock; split <;> rfl

@[simp] theorem refillBlock_ivb (ks : Keystream) : (refillBlock ks).ivb = ks.ivb := by unfold refillBlock; split <;> rfl

@[simp] theorem refillBlock_pos (ks : Keystream) : (refillBlock ks).pos = ks.pos := by unfold refillBlock; split <;> rfl

@[simp] theorem refillBlock_num (ks : Keystream) : (refillBlock ks).num = ks.num := by unfold refillBlock; split <;> rfl

/-- One pass of the loop, field by field. -/
theorem xorByte_eq (i : Nat) (s : State) :
    xorByte i s = { s with
      ks := { refillBlock s.ks with num := s.ks.num + 1 }
      mem := memInsert s.mem (bufBase + i)
        (bufByte s i ^^^ nth (refillBlock s.ks).ecount s.ks.num.toNat 0) } := by
  simp [xorByte, writeRam]

/-- The loop changes the keystream state and the memories alone, and of the keystream state neither the key nor the IV
prefix nor POS. -/
theorem xorBytes_frame (n i : Nat) (s : State) :
    xorBytes n i s = { s with ks := (xorBytes n i s).ks, mem := (xorBytes n i s).mem } ∧
    (xorBytes n i s).ks.key = s.ks.key ∧ (xorBytes n i s).ks.ivb = s.ks.ivb ∧ (xorBytes n i s).ks.pos = s.ks.pos := by
  induction n generalizing i s with
  | zero => exact ⟨rfl, rfl, rfl, rfl⟩
  | succ n ih =>
    obtain ⟨h1, h2, h3, h4⟩ := ih (i + 1) (xorByte i s)
    simp only [xorBytes]
    refine ⟨?_, ?_, ?_, ?_⟩
    · rw [h1, xorByte_eq]
    · rw [h2, xorByte_eq]; simp
    · rw [h3, xorByte_eq]; simp
    · rw [h4, xorByte_eq]; simp

/-- The loop leaves every byte outside its range alone. -/
theorem readRam_xorBytes_outside (n i : Nat) (s : State) (a : Nat) (h : ¬(bufBase + i ≤ a ∧ a < bufBase + i + n)) :
    readRam (xorBytes n i s) a = readRam s a := by
  induction n generalizing i s with
  | zero => rfl
  | succ n ih =>
    simp only [xorBytes]
    rw [ih (i + 1) _ (by omega), xorByte]
    rw [readRam_writeRam_other _ _ (by omega)]
    exact readRam_congr rfl rfl a

/-- The loop keeps the memories in canonical form. -/
theorem xorBytes_wf (n i : Nat) (s : State) (h : Memory.wf s.mem = true) (hn : i + n ≤ 256) :
    Memory.wf (xorBytes n i s).mem = true := by
  induction n generalizing i s with
  | zero => exact h
  | succ n ih =>
    refine ih (i + 1) _ ?_ (by omega)
    rw [xorByte_eq]
    exact memInsert_wf _ _ _ h (ramAddr_buf (by omega))

/-! ### The digest -/

theorem absorbBytes_append (sp : Sponge) (m m' : List Byte) :
    absorbBytes sp (m ++ m') = absorbBytes (absorbBytes sp m) m' := List.foldl_append

@[simp] theorem absorbBytes_nil (sp : Sponge) : absorbBytes sp [] = sp := rfl

/-! ### The header -/

@[simp] theorem headerImage_length (c : ConfigRegs) (dg : DigestUnit) : (headerImage c dg).length = 128 := by
  simp [headerImage]

end Sys2Proof.Machine
end

