-- ==== Sys2Proof/Laws/Cycle.lean ====
section
/-! SUPPORT. What a bus transaction, a cycle and a step can do, said once. -/

namespace Sys2Proof.Machine

/-- A read moves nothing but the model's count of drawn free values. -/
theorem readReg_state (r : Reg) (s : State) : (readReg r s).2 = s ∨ (readReg r s).2 = drawn s := by
  unfold readReg; split <;> simp

/-- A write while BUSY = 1 reaches IRQ_EN and IRQ_STATUS alone. -/
theorem writeReg_busy (r : Reg) (v : Word) (s : State) (h : s.busy = true) :
    writeReg r v s = { s with irqEn := (writeReg r v s).irqEn, irqStatus := (writeReg r v s).irqStatus } := by
  unfold writeReg
  split
  · rfl
  · split
    · rfl
    · rename_i hb
      have hr : r = .irqEn ∨ r = .irqStatus := by
        by_cases he : r = .irqEn
        · exact .inl he
        · exact .inr (by simpa [h, regBusyWritable, he] using hb)
      rcases hr with rfl | rfl <;> rfl

/-- A transaction while BUSY = 1 leaves the operands and results of commands, and the command itself, alone. -/
theorem transact_busy (q : BusReq) (s : State) (h : s.busy = true) :
    (transact q s).2 = { s with
      irqEn := (transact q s).2.irqEn, irqStatus := (transact q s).2.irqStatus, draws := (transact q s).2.draws } := by
  unfold transact
  split
  · rename_i r _
    cases q with
    | read off size => rcases readReg_state r s with h' | h' <;> simp only [accessReg, h', drawn]
    | write off size st v => simp only [accessReg]; rw [writeReg_busy r v s h]
  · rfl

/-- What the bus phase answers: a fault exactly for a transaction that reaches no register. -/
theorem busPhase_cases (bus : Option BusReq) (s : State) :
    (bus = none ∧ busPhase bus s = .next s) ∨
    (∃ q r, bus = some q ∧ reqReg q = some r ∧
      busPhase bus s = .next { (accessReg q r s).2 with resp := some (accessReg q r s).1 }) ∨
    (∃ q, bus = some q ∧ reqReg q = none ∧ busPhase bus s = .fault (.slverr q (slverrResult q s))) := by
  cases bus with
  | none => exact .inl ⟨rfl, rfl⟩
  | some q =>
    cases hr : reqReg q with
    | none =>
      refine .inr (.inr ⟨q, rfl, hr, ?_⟩)
      cases q <;> simp [busPhase, transact, hr, slverrResult]
    | some r =>
      refine .inr (.inl ⟨q, r, rfl, hr, ?_⟩)
      cases q <;> simp [busPhase, transact, hr, accessReg]

/-- The bus phase of a busy machine leaves all but the interrupt registers, the response and the count of drawn free
values alone. -/
theorem busPhase_busy {bus : Option BusReq} {s s1 : State} (h : s.busy = true) (hb : busPhase bus s = .next s1) :
    s1 = { s with irqEn := s1.irqEn, irqStatus := s1.irqStatus, resp := s1.resp, draws := s1.draws } := by
  rcases busPhase_cases bus s with ⟨-, h1⟩ | ⟨q, r, -, hr, h1⟩ | ⟨q, -, -, h1⟩
  · rw [h1] at hb; cases hb; rfl
  · rw [h1] at hb
    have hq : (transact q s) = accessReg q r s := by simp [transact, hr]
    have := transact_busy q s h
    rw [hq] at this
    cases hb
    rw [this]
  · rw [h1] at hb; cases hb

/-- Completing a word always gives a next state. -/
theorem executeWord_completes (w : Word) (s : State) : ∃ e s', executeWord exec w s = .next (complete e s') := by
  unfold executeWord
  split
  · exact exec_completes _ _
  · exact ⟨_, _, rfl⟩

/-- Everything a step that answers a next state can have done: reset; or the host's transaction and then, with a
command in PEND, one cycle of its LAT or its completion. -/
theorem step_cases {s t : State} (h : step s = .next t) :
    ((cycleInput s).reset = true ∧ t = resetCycle (cycleInput s).bus (takeInput s)) ∨
    ((cycleInput s).reset = false ∧ ∃ s1, busPhase (cycleInput s).bus (takeInput s) = .next s1 ∧
      ((s.pend = none ∧ t = s1) ∨
       (∃ w, s.pend = some w ∧ 1 < s.remaining ∧ t = { s1 with remaining := s.remaining - 1 }) ∨
       (∃ w, s.pend = some w ∧ s.remaining ≤ 1 ∧ executeWord exec w s1 = .next t))) := by
  unfold step cycle at h
  cases hc : (cycleInput s).reset
  · simp only [hc, Bool.false_eq_true, if_false] at h
    refine .inr ⟨rfl, ?_⟩
    unfold clockedCycle at h
    cases hb : busPhase (cycleInput s).bus (takeInput s) with
    | fault f => simp [hb] at h
    | refused r => simp [hb] at h
    | next s1 =>
      simp only [hb] at h
      refine ⟨s1, rfl, ?_⟩
      cases hp : s.pend with
      | none => simp [State.busy, hp] at h; exact .inl ⟨rfl, h.symm⟩
      | some w =>
        have hbusy : (takeInput s).busy = true := by simp [State.busy, hp]
        have hs1 := busPhase_busy hbusy hb
        have hpend : s1.pend = some w := by rw [hs1]; exact hp
        have hrem : s1.remaining = s.remaining := by rw [hs1]; rfl
        simp only [hbusy, if_true, enginePhase, hpend, hrem] at h
        by_cases hr : s.remaining ≤ 1
        · rw [if_pos hr] at h; exact .inr (.inr ⟨w, rfl, hr, h⟩)
        · rw [if_neg hr] at h; cases h; exact .inr (.inl ⟨w, rfl, by omega, by rw [hpend]⟩)
  · simp only [hc, if_true] at h
    cases h
    exact .inl ⟨rfl, rfl⟩

/-- What reset leaves of the model's own fields. -/
theorem resetCycle_eq (bus : Option BusReq) (s : State) :
    resetCycle bus s = { State.reset with
      inbox := s.inbox, epoch := s.epoch + 1, draws := s.draws + 1, resp := resetResult bus s } := rfl

end Sys2Proof.Machine
end

