-- ==== Sys2Proof/Laws/PerInstr.lean ====
section
/-! SUPPORT. One family of lemmas per constructor of Instr: the fields of the word that encode gives a command. -/

namespace Sys2Proof

/-- The fields of a word built from its fields (R63). -/
theorem commandWord_fields (opc : BitVec 8) (len : BitVec 9) (off : BitVec 8) :
    fieldRes (commandWord opc len off) = 0#7 ∧ fieldOpc (commandWord opc len off) = opc ∧
    fieldLen (commandWord opc len off) = len ∧ fieldOff (commandWord opc len off) = off := by
  refine ⟨?_, ?_, ?_, ?_⟩ <;> apply BitVec.eq_of_getLsbD_eq <;> intro i hi <;>
    simp only [fieldRes, fieldOpc, fieldLen, fieldOff, commandWord, BitVec.getLsbD_append,
      BitVec.getLsbD_extractLsb'] <;>
    interval_cases i <;> simp

namespace Laws.EncodeFields

/-- OPC of a command (R66). -/
def opcodeOf (i : Instr) : BitVec 8 :=
  match i with
  | .nop => 0x00#8
  | .init => 0x01#8
  | .seek => 0x02#8
  | .xor _ _ => 0x03#8
  | .dgInit => 0x04#8
  | .dgAbsorb _ _ => 0x05#8
  | .dgFinalPwd => 0x06#8
  | .dgFinalSalt => 0x07#8
  | .hdrBuild => 0x08#8
  | .hdrCheck _ => 0x09#8
  | .close => 0x0A#8

/-- LEN of a command, 0 where it takes none (R66). -/
def lenOf (i : Instr) : BitVec 9 :=
  match i with
  | .nop => 0
  | .init => 0
  | .seek => 0
  | .xor _ len => len
  | .dgInit => 0
  | .dgAbsorb _ len => len
  | .dgFinalPwd => 0
  | .dgFinalSalt => 0
  | .hdrBuild => 0
  | .hdrCheck len => len
  | .close => 0

/-- OFF of a command, 0 where it takes none (R66). -/
def offOf (i : Instr) : BitVec 8 :=
  match i with
  | .nop => 0
  | .init => 0
  | .seek => 0
  | .xor off _ => off
  | .dgInit => 0
  | .dgAbsorb off _ => off
  | .dgFinalPwd => 0
  | .dgFinalSalt => 0
  | .hdrBuild => 0
  | .hdrCheck _ => 0
  | .close => 0

/-- The word of a command holds 0 in RES and its opcode, LEN and OFF in their places (R63). -/
def Statement (i : Instr) : Prop :=
  fieldRes (encode i) = 0#7 ∧ fieldOpc (encode i) = opcodeOf i ∧ fieldLen (encode i) = lenOf i ∧
  fieldOff (encode i) = offOf i

theorem nop : Statement .nop := commandWord_fields _ _ _

theorem init : Statement .init := commandWord_fields _ _ _

theorem seek : Statement .seek := commandWord_fields _ _ _

theorem xor (off : BitVec 8) (len : BitVec 9) : Statement (.xor off len) := commandWord_fields _ _ _

theorem dgInit : Statement .dgInit := commandWord_fields _ _ _

theorem dgAbsorb (off : BitVec 8) (len : BitVec 9) : Statement (.dgAbsorb off len) := commandWord_fields _ _ _

theorem dgFinalPwd : Statement .dgFinalPwd := commandWord_fields _ _ _

theorem dgFinalSalt : Statement .dgFinalSalt := commandWord_fields _ _ _

theorem hdrBuild : Statement .hdrBuild := commandWord_fields _ _ _

theorem hdrCheck (len : BitVec 9) : Statement (.hdrCheck len) := commandWord_fields _ _ _

theorem close : Statement .close := commandWord_fields _ _ _

end Laws.EncodeFields

end Sys2Proof
end

