-- ==== Sys2Proof/Tests/Slice0.lean ====
section
/-! SUPPORT. The model's own tests: values from the spec's vectors (95_test_vectors.md), and for every statement with
hypotheses a concrete state that meets them. -/

namespace Sys2Proof.Tests

open Sys2Proof Sys2Proof.Machine Sys2Proof.Claims

/-! ### States -/

/-- After INIT with AES-128 and a zero key, at position 0. -/
def keyed : State := { State.reset with ks := { Keystream.reset with key := List.replicate 16 0#8 } }

/-- `keyed` at position `p`. -/
def keyedAt (p : DWord) : State := { keyed with ks := seekKeystream keyed.ks p }

/-- With seek offset `p` in ARG. -/
def withArg (p : DWord) (s : State) : State :=
  { s with cfg := { s.cfg with argLo := p.extractLsb' 0 32, argHi := p.extractLsb' 32 32 } }

/-- With KEYLEN = `k`. -/
def withKeylen (k : BitVec 2) (s : State) : State := { s with cfg := { s.cfg with keylen := k } }

/-- A command in PEND with `n` cycles of its LAT to go. -/
def busyWith (w : Word) (n : Nat) (s : State) : State := { s with pend := some w, remaining := n }

/-- The host makes transaction `q` in the coming cycle, and nothing after it. -/
def sending (q : BusReq) (s : State) : State := { s with inbox := [{ reset := false, bus := some q }] }

/-- Reset is asserted in the coming cycle, with a transaction the bus would refuse beside it. -/
def resetting (s : State) : State := { s with inbox := [{ reset := true, bus := some (.read 0x001 .word) }] }

/-- An open computation with DG_IDX = `i`. -/
def digesting (i : Fin 136) : State :=
  { State.reset with dg := { DigestUnit.reset with active := true, sponge := { Sponge.zero with idx := i } } }

/-- Both digests valid. -/
def digested : State := { State.reset with dg := { DigestUnit.reset with pwdDv := true, saltDv := true } }

/-- The state an outcome gives; the tests read fields that reset leaves at other values. -/
def after (o : Host.Outcome State Fault Refusal) : State :=
  match o with
  | .next t => t
  | .fault _ => State.reset
  | .refused _ => State.reset

/-- The bytes `0, 1, …, n − 1`: the test key. -/
def countUp (n : Nat) : List Byte := (List.range n).map (BitVec.ofNat 8)

/-! ### WellFormed and Decode -/

theorem test_illformed_xor : (Instr.xor 0 257).wellFormed = false := by decide
theorem test_illformed_absorb : (Instr.dgAbsorb 255 511).wellFormed = false := by decide
theorem test_illformed_hdrCheck : (Instr.hdrCheck 129).wellFormed = false := by decide
theorem test_wellformed_ends : (Instr.xor 255 256).wellFormed = true ∧ (Instr.hdrCheck 128).wellFormed = true := by decide

/-- R66: one word of each opcode, its bits written out from R63. -/
theorem test_decode_words :
    decode 0b0000000_00000000_000000000_00000000#32 = .ok .nop ∧
    decode 0b0000000_00000000_000000000_00000001#32 = .ok .init ∧
    decode 0b0000000_00000000_000000000_00000010#32 = .ok .seek ∧
    decode 0b0000000_00000101_000010100_00000011#32 = .ok (.xor 5 20) ∧
    decode 0b0000000_00000000_000000000_00000100#32 = .ok .dgInit ∧
    decode 0b0000000_11111111_100000000_00000101#32 = .ok (.dgAbsorb 255 256) ∧
    decode 0b0000000_00000000_000000000_00000110#32 = .ok .dgFinalPwd ∧
    decode 0b0000000_00000000_000000000_00000111#32 = .ok .dgFinalSalt ∧
    decode 0b0000000_00000000_000000000_00001000#32 = .ok .hdrBuild ∧
    decode 0b0000000_00000000_010000000_00001001#32 = .ok (.hdrCheck 128) ∧
    decode 0b0000000_00000000_000000000_00001010#32 = .ok .close := by decide

/-- R68: words just past each legal range. -/
theorem test_decode_refuses :
    decode 0x0000000B#32 = .error .opcodeReserved ∧ decode 0x000000FF#32 = .error .opcodeReserved ∧
    decode 0x02000000#32 = .error .reservedNotZero ∧ decode 0x00010103#32 = .error .lenTooLong ∧
    decode 0x00010105#32 = .error .lenTooLong ∧ decode 0x00008109#32 = .error .lenTooLong ∧
    decode 0x00020009#32 = .error .offNotZero ∧ decode 0x00000101#32 = .error .operandNotZero ∧
    decode 0x0002000A#32 = .error .operandNotZero := by decide

theorem test_table_word : decodeTableWord 32 0x00001403 = some (.xor 0 20) ∧ decodeTableWord 32 0x0B = none := by decide

/-! ### The primitives -/

/-- FIPS-197 C.1 (R98, PRIM-1). -/
theorem test_aes128 :
    (aesEncrypt (countUp 16) (tab 16 fun i => BitVec.ofNat 8 (17 * i))).toList =
      [0x69, 0xc4, 0xe0, 0xd8, 0x6a, 0x7b, 0x04, 0x30, 0xd8, 0xcd, 0xb7, 0x80, 0x70, 0xb4, 0xc5, 0x5a] := by decide +kernel

/-- FIPS-197 C.2 (R98, PRIM-2). -/
theorem test_aes192 :
    (aesEncrypt (countUp 24) (tab 16 fun i => BitVec.ofNat 8 (17 * i))).toList =
      [0xdd, 0xa9, 0x7c, 0xa4, 0x86, 0x4c, 0xdf, 0xe0, 0x6e, 0xaf, 0x70, 0xa0, 0xec, 0x0d, 0x71, 0x91] := by decide +kernel

/-- FIPS-197 C.3 (R98, PRIM-3). -/
theorem test_aes256 :
    (aesEncrypt (countUp 32) (tab 16 fun i => BitVec.ofNat 8 (17 * i))).toList =
      [0x8e, 0xa2, 0xb7, 0xca, 0x51, 0x67, 0x45, 0xbf, 0xea, 0xfc, 0x49, 0x90, 0x4b, 0x49, 0x60, 0x89] := by decide +kernel

/-- SHA3-256 of the empty message (R84, R101). -/
theorem test_sha3_empty :
    (sha3_256 []).toList =
      [0xa7, 0xff, 0xc6, 0xf8, 0xbf, 0x1e, 0xd7, 0x66, 0x51, 0xc1, 0x47, 0x56, 0xa0, 0x61, 0xd6, 0x62,
       0xf5, 0x80, 0xff, 0x4d, 0xe4, 0x3b, 0x49, 0xfa, 0x82, 0xd8, 0x0a, 0x4b, 0x80, 0xf8, 0x43, 0x4a] := by decide +kernel

/-! ### The commands -/

/-- CTL-8. -/
theorem test_nop :
    (after (exec .nop (busyWith 0 1 { keyed with lastCmd := 7 }))).lastCmd = 0 ∧
    statusWord (after (exec .nop (busyWith 0 1 keyed))) = 0x00000002#32 ∧
    (after (exec .nop (busyWith 0 1 keyed))).irqStatus = 1 := by decide

/-- CTL-4. -/
theorem test_init_reserved_keylen :
    statusWord (after (exec .init (withKeylen 3 State.reset))) = 0x00000200#32 ∧
    (after (exec .init (withKeylen 3 State.reset))).irqStatus = 3 := by decide

/-- R74: KEYLEN = 0 latches KEY[0..16) in byte order. -/
theorem test_init_latches :
    (after (exec .init (withKeylen 0 { State.reset with
      cfg := { ConfigRegs.reset with key := tab 8 (stringWord (countUp 32)), ivb := tab 2 (stringWord (countUp 8)) } }))).ks =
      { Keystream.reset with key := countUp 16, ivb := tab 8 (BitVec.ofNat 8) } := by decide

/-- SEEK-8: a block boundary calls no AES. -/
theorem test_seek_aligned :
    (after (exec .seek (withArg 32 (keyedAt 16)))).ks.pos = 32 ∧ (after (exec .seek (withArg 32 (keyedAt 16)))).ks.ctr = 2 ∧
    (after (exec .seek (withArg 32 (keyedAt 16)))).ks.num = 0 := by decide

/-- SEEK-14. -/
theorem test_seek_range :
    (after (exec .seek (withArg 0x8000000000000000 (keyedAt 16)))).err = .posRange ∧
    (after (exec .seek (withArg 0x8000000000000000 (keyedAt 16)))).ks.pos = 16 := by decide

/-- CTL-1, the first byte of the keystream: E(0) begins db. -/
theorem test_xor_first_byte :
    bufByte (after (exec (.xor 0 1) { keyed with
      ks := { Keystream.reset with key := countUp 16, ivb := tab 8 fun i => BitVec.ofNat 8 (0xa0 + i) }
      mem := [(0x200, 0xFF#8)] })) 0 = 0x24#8 := by decide +kernel

/-- XOR-16. -/
theorem test_xor_buf_range : (after (exec (.xor 255 2) keyed)).err = .bufRange := by decide

/-- R85: DG_INIT with STATUS = 0x2 gives 0x6. -/
theorem test_dgInit : statusWord (after (exec .dgInit (busyWith 4 1 keyed))) = 0x00000006#32 := by decide

/-- R86: "hello" leaves DG_IDX = 5. -/
theorem test_dgAbsorb_idx :
    (after (exec (.dgAbsorb 0 5) { digesting 0 with
      mem := [(0x200, 0x68), (0x201, 0x65), (0x202, 0x6c), (0x203, 0x6c), (0x204, 0x6f)] })).dg.sponge.idx = 5 := by decide

theorem test_dgAbsorb_closed : (after (exec (.dgAbsorb 0 5) keyed)).err = .digestState := by decide

/-- R87: the empty message. -/
theorem test_dgFinalPwd : (after (exec .dgFinalPwd (digesting 0))).dg.pwd = sha3_256 [] := rfl

/-- R88: the empty message. -/
theorem test_dgFinalSalt : (after (exec .dgFinalSalt (digesting 0))).dg.salt = sha3_256 [] := rfl

/-- R90: the first ten bytes of the S1 header. -/
theorem test_hdrBuild :
    hdrSlice (after (exec .hdrBuild digested)) 0 10 = [0xcd, 1, 2, 0, 0, 0, 5, 0, 0, 0] := by decide

/-- R90: ROUNDS = −1. -/
theorem test_hdrBuild_rounds :
    hdrSlice (after (exec .hdrBuild { digested with cfg := { ConfigRegs.reset with rounds := 0xFFFFFFFF } })) 6 5 =
      [0xff, 0xff, 0xff, 0xff, 0] := by decide

/-- R91: LEN = 100 reports SHORT alone. -/
theorem test_hdrCheck_short :
    (after (exec (.hdrCheck 100) digested)).hdrResult = 1 ∧
    (after (exec (.hdrCheck 100) digested)).err = .headerInvalid := by decide

/-- R91: the header just built passes with version 1. -/
theorem test_hdrCheck_built :
    (after (exec (.hdrCheck 128) (after (exec .hdrBuild digested)))).hdrResult = 0x100 ∧
    (after (exec (.hdrCheck 128) (after (exec .hdrBuild digested)))).hdrOk = true := by decide +kernel

/-- CTL-6. -/
theorem test_close :
    statusWord (after (exec .close (busyWith 0xA 1 { keyed with hdrOk := true }))) = 0#32 ∧
    (after (exec .close { keyed with cfg := { ConfigRegs.reset with key := Vector.replicate 8 1 } })).cfg.key =
      Vector.replicate 8 0 ∧
    (after (exec (.xor 0 1) (after (exec .close keyed)))).err = .notInit := by decide

/-! ### The bus, cycles and host programs -/

/-- R20: a word of BUF holds its first byte in bits [7:0]. -/
theorem test_buf_word :
    (transact (regWrite (.buf 1) 0x0A0B0C0D) keyed).2.mem = [(0x204, 0x0D), (0x205, 0x0C), (0x206, 0x0B), (0x207, 0x0A)] := by
  decide

/-- R19, R21: CTRL keeps two bits. -/
theorem test_ctrl_reserved : regValue (transact (regWrite .ctrl 0xFFFFFFFF) keyed).2 .ctrl = 3 := by decide

/-- R29, R111: the acknowledgement of DONE on an idle machine. -/
theorem test_irq_ack : (transact (regWrite .irqStatus 1) { keyed with irqStatus := 7 }).2.irqStatus = 6 := by decide

/-- R121: a second CMD write sets WERR alone. -/
theorem test_cmd_while_busy :
    (transact (regWrite .cmd 1) (busyWith 0 2 keyed)).2 = { busyWith 0 2 keyed with irqStatus := 4 } := rfl

/-- R71: `LOADKEY` of the test key, the words of P1. -/
theorem test_loadKey :
    loadKeyOps (countUp 16) =
      [.wr (.key 0) 0x03020100, .wr (.key 1) 0x07060504, .wr (.key 2) 0x0b0a0908, .wr (.key 3) 0x0f0e0d0c] := by decide

/-- P3: `DIGEST_PWD "hello"`. -/
theorem test_digestPwd :
    digestPwdOps [0x68, 0x65, 0x6c, 0x6c, 0x6f] =
      [.wr .cmd 4, .poll, .wr (.buf 0) 0x6c6c6568, .wr (.buf 1) 0x0000006f, .wr .cmd 0x00000505, .poll, .wr .cmd 6, .poll] := by
  decide

/-- R120: a file of one byte is checked with LEN = 1. -/
theorem test_openOps : openOps [0xCD] = [.wr (.hdr 0) 0x000000CD, .wr .cmd 0x00000109, .poll] := by decide

/-- R47: BASE moves the window. -/
theorem test_base : windowOffset 0x40000000 0x400003FC = some 0x3FC ∧ windowOffset 0x40000000 0x40000400 = none := by decide

/-! ### The words the statements are said in -/

theorem keyedAt_ksReady (p : DWord) : (keyedAt p).ksReady = true := by
  simp only [keyedAt, seekKeystream]; split <;> rfl

/-- KSI at offset 0, at a block boundary, inside a block, and at the last offset. -/
theorem witness_KSI : KSI (keyedAt 0).ks ∧ KSI (keyedAt 16).ks ∧ KSI (keyedAt 5).ks ∧ KSI (keyedAt 0x7FFFFFFFFFFFFFFF).ks :=
  ⟨⟨by decide, by decide, fun h => absurd rfl h, fun _ => by decide⟩,
   ⟨by decide, by decide, fun h => absurd rfl h, fun _ => by decide⟩,
   ⟨by decide, by decide, fun _ => ⟨by decide, rfl⟩, fun h => absurd h (by decide)⟩,
   ⟨by decide, by decide, fun _ => ⟨by decide, rfl⟩, fun h => absurd h (by decide)⟩⟩

theorem headerReady_keylens :
    HeaderReady (withKeylen 0 digested) ∧ HeaderReady (withKeylen 1 digested) ∧ HeaderReady (withKeylen 2 digested) := by
  unfold HeaderReady; decide

theorem illegal_each :
    Illegal (.read 0x001 .word) ∧ Illegal (.read 0x002 .word) ∧ Illegal (.read 0x003 .word) ∧ Illegal (.read 0x000 .half) ∧
    Illegal (.write 0x000 .byte 0b1111 0) ∧ Illegal (.write 0x000 .word 0b0111 0) ∧ Illegal (.read 0x064 .word) ∧
    Illegal (.read 0x07C .word) ∧ Illegal (.read 0x0C0 .word) ∧ Illegal (.read 0x0FC .word) ∧ Illegal (.read 0x180 .word) ∧
    Illegal (.read 0x1FC .word) ∧ Illegal (.read 0x300 .word) ∧ Illegal (.write 0x3FC .word 0b1111 0) := by
  refine ⟨?_, ?_, ?_, ?_, ?_, ?_, ?_, ?_, ?_, ?_, ?_, ?_, ?_, ?_⟩ <;> simp [Illegal, reqOffset]

theorem legal_each :
    ¬Illegal (.read 0x000 .word) ∧ ¬Illegal (.read 0x060 .word) ∧ ¬Illegal (.read 0x080 .word) ∧ ¬Illegal (.read 0x0BC .word) ∧
    ¬Illegal (.read 0x100 .word) ∧ ¬Illegal (.read 0x17C .word) ∧ ¬Illegal (.read 0x200 .word) ∧
    ¬Illegal (.write 0x2FC .word 0b1111 0) := by
  refine ⟨?_, ?_, ?_, ?_, ?_, ?_, ?_, ?_⟩ <;> simp [Illegal, reqOffset]

/-! ### Witnesses: the hypotheses of each statement, met together -/

theorem witness_DecodeEncodeInverse :
    (Instr.xor 255 256).wellFormed = true ∧ (Instr.dgAbsorb 0 0).wellFormed = true ∧ (Instr.hdrCheck 128).wellFormed = true ∧
    decode 0x01FF0003#32 = .ok (.xor 255 256) := by decide

theorem witness_IllegalWordsAreThoseListed :
    (∃ e, decode 0x0000000B#32 = .error e) ∧ (∃ e, decode 0xFE000000#32 = .error e) ∧ (∃ e, decode 0x00010103#32 = .error e) ∧
    (∃ e, decode 0x00008109#32 = .error e) ∧ (∃ e, decode 0x00020009#32 = .error e) ∧ (∃ e, decode 0x00000102#32 = .error e) ∧
    (∃ e, decode 0x00020004#32 = .error e) ∧ decode 0x00010003#32 = .ok (.xor 0 256) :=
  ⟨⟨_, rfl⟩, ⟨_, rfl⟩, ⟨_, rfl⟩, ⟨_, rfl⟩, ⟨_, rfl⟩, ⟨_, rfl⟩, ⟨_, rfl⟩, rfl⟩

theorem witness_RegisterMapOfTheWindow :
    [0x060, 0x080, 0x0BC, 0x100, 0x17C, 0x200, 0x2FC].all (fun a : BitVec 10 => (regAt a).isSome) = true ∧
    [0x001, 0x002, 0x003, 0x064, 0x07C, 0x0C0, 0x0FC, 0x180, 0x1FC, 0x300, 0x3FC, 0x3FF].all
      (fun a : BitVec 10 => (regAt a).isNone) = true := by decide

theorem witness_ReadsHaveNoSideEffect :
    keyed.busy = false ∧ (busyWith 0 1 keyed).busy = true ∧ BusyReadable .ctrl ∧ BusyReadable (.key 7) ∧
    ¬BusyReadable .num ∧ ¬BusyReadable (.buf 63) := by
  simp [BusyReadable]; decide

theorem witness_HostWriteReadsBack :
    keyed.busy = false ∧ IdleWritable .ctrl ∧ Reg.ctrl ≠ .cmd ∧ IdleWritable (.key 7) ∧ IdleWritable (.buf 63) ∧
    Reg.buf 63 ≠ .hdr 31 := by
  simp [IdleWritable]; decide

theorem witness_BusyWritesAreIgnored :
    (busyWith 0 2 keyed).busy = true ∧ keyed.busy = false ∧ IdleWritable .cmd ∧ IdleWritable (.hdr 31) ∧ ReadOnly .status ∧
    ReadOnly (.saltDigest 7) := by
  simp [IdleWritable, ReadOnly]; decide

theorem witness_KeyIsNotReadable :
    keyed.busy = false ∧ BusyReadable (.key 0) ∧ (([] : List Byte) = [] ↔ State.reset.ks.key = []) ∧ (countUp 32 = [] ↔ keyed.ks.key = []) :=
  ⟨rfl, by simp [BusyReadable], by decide⟩

theorem witness_SlverrChangesNothing : Illegal (.read 0x001 .word) ∧ Illegal (.write 0x000 .word 0b0111 0) :=
  ⟨illegal_each.1, illegal_each.2.2.2.2.2.1⟩

theorem witness_SlverrIsAFaultOfTheHost :
    Illegal (.write 0x3FC .word 0b1111 0) ∧
    (sending (.write 0x3FC .word 0b1111 0) keyed).inbox = { reset := false, bus := some (.write 0x3FC .word 0b1111 0) } :: [] :=
  ⟨illegal_each.2.2.2.2.2.2.2.2.2.2.2.2.2, rfl⟩

theorem witness_StepRunsPendingCommand :
    (busyWith 0x00001403 1 keyed).pend = some 0x00001403 ∧ decode 0x00001403#32 = .ok (.xor 0 20) ∧
    (busyWith 0x00001403 1 keyed).remaining ≤ 1 ∧ cycleInput (busyWith 0x00001403 1 keyed) = CycleIn.idle ∧
    decode (BitVec.ofNat 32 (0x01FF0005 % 2 ^ 32)) = .ok (.dgAbsorb 255 256) := by decide

theorem witness_StepMakesTheTransaction :
    ¬Illegal (.read 0x060 .word) ∧
    (sending (.read 0x060 .word) keyed).inbox = { reset := false, bus := some (.read 0x060 .word) } :: [] ∧
    (sending (.read 0x060 .word) keyed).pend = none ∧ (sending (.read 0x060 .word) (busyWith 0 2 keyed)).pend ≠ none ∧
    1 < (sending (.read 0x060 .word) (busyWith 0 2 keyed)).remaining :=
  ⟨legal_each.2.1, rfl, rfl, by decide, by decide⟩

theorem witness_CmdWriteIssuesAnyWord : keyed.busy = false := by decide

theorem witness_IllegalWordCompletesWithoutEffect :
    (busyWith 0x0000000B 1 keyed).pend = some 0x0000000B ∧ decode 0x0000000B#32 = .error .opcodeReserved ∧
    (busyWith 0x0000000B 1 keyed).remaining ≤ 1 ∧ cycleInput (busyWith 0x0000000B 1 keyed) = CycleIn.idle := by decide

theorem witness_IssuedCommandCompletes :
    (sending (.read 0x060 .word) (busyWith 0x01FF0003 3 keyed)).pend = some 0x01FF0003 ∧
    (∀ c ∈ (sending (.read 0x060 .word) (busyWith 0x01FF0003 3 keyed)).inbox, c.reset = false ∧ dutifulInput c = true) := by
  decide

theorem witness_NoIntermediateStateWhileBusy :
    (busyWith 3 2 keyed).busy = true ∧ 1 < (busyWith 3 2 keyed).remaining ∧ ¬ResetComing (busyWith 3 2 keyed) ∧
    ∃ t, step (busyWith 3 2 keyed) = .next t := by
  unfold ResetComing; exact ⟨rfl, by decide, by decide, _, rfl⟩

theorem witness_CommandRunsOnOperandsAsIssued :
    (sending (regWrite .cmd 0x00001403) keyed).pend = none ∧ decode 0x00001403#32 = .ok (.xor 0 20) ∧
    (sending (regWrite .cmd 0x00001403) keyed).inbox = [{ reset := false, bus := some (regWrite .cmd 0x00001403) }] := by
  decide

theorem witness_RunCommandEnds : keyed.pend = none ∧ (Instr.xor 0 256).wellFormed = true := by decide

theorem witness_SetWinsOverClear :
    (sending (regWrite .irqStatus 7) (busyWith 0 1 keyed)).pend = some 0 ∧
    (sending (regWrite .irqStatus 7) (busyWith 0 1 keyed)).remaining ≤ 1 ∧
    (sending (regWrite .irqStatus 7) (busyWith 0 1 keyed)).inbox =
      { reset := false, bus := some (regWrite .irqStatus 7) } :: [] := by decide

/-- DONE and WERR pending, DONE enabled. -/
def pending : State := { keyed with irqEn := 1, irqStatus := 5 }

/-- With DONE pending and enabled: the host acts not, writes 0 or another bit's 1 to IRQ_STATUS, or keeps the bit in
IRQ_EN. -/
theorem witness_IrqLineIsLevelSensitive :
    (0 < 3 ∧ pending.irqStatus.getLsbD 0 = true ∧ pending.irqEn.getLsbD 0 = true ∧ pending.irq = true) ∧
    (∀ q ∈ [regWrite .irqStatus 0, regWrite .irqStatus 4, regWrite .irqEn 7, regRead .status],
      (∃ t, step (sending q pending) = .next t) ∧ ¬ResetComing (sending q pending) ∧
      (∀ v, HostWritesValue (sending q pending) .irqStatus v → v.getLsbD 0 = false) ∧
      (∀ v, HostWritesValue (sending q pending) .irqEn v → v.getLsbD 0 = true)) := by
  refine ⟨by decide, fun q hq => ?_⟩
  simp only [List.mem_cons, List.not_mem_nil, or_false] at hq
  rcases hq with rfl | rfl | rfl | rfl <;>
    refine ⟨⟨_, rfl⟩, by unfold ResetComing; decide, ?_, ?_⟩ <;>
    (rintro v ⟨o, z, b, h, hr⟩; cases h <;> first | rfl | exact absurd hr (by decide))

theorem witness_ResetDiscardsTheCommand : ResetComing (resetting (busyWith 3 1 keyed)) := by unfold ResetComing; decide

theorem witness_InitLatchesKeyAndPrefix :
    (withKeylen 0 keyed).cfg.keylen ≠ 3#2 ∧ (withKeylen 1 keyed).cfg.keylen ≠ 3#2 ∧ (withKeylen 2 keyed).cfg.keylen ≠ 3#2 := by
  decide

theorem witness_SeekSetsTheOffset :
    keyed.ksReady = true ∧ seekPos (withArg 0 keyed) = 0 ∧ seekPos (withArg 5 keyed) = 5 ∧ seekPos (withArg 16 keyed) = 16 ∧
    seekPos (withArg 0x7FFFFFFFFFFFFFFF keyed) < 2 ^ 63 := by decide

theorem witness_SeekIsIdempotent :
    (∃ t, (busyWith 2 1 (withArg 16 keyed)).pend = some 2 ∧ (busyWith 2 1 (withArg 16 keyed)).ksReady = true ∧
      exec .seek (busyWith 2 1 (withArg 16 keyed)) = .next t) ∧
    (∃ t t', seekPos (withArg 5 keyed) < 2 ^ 63 ∧ (withArg 5 (keyedAt 16)).cfg = (withArg 5 keyed).cfg ∧
      (withArg 5 (keyedAt 16)).ks.key = (withArg 5 keyed).ks.key ∧ (withArg 5 (keyedAt 16)).ks.ivb = (withArg 5 keyed).ks.ivb ∧
      exec .seek (withArg 5 keyed) = .next t ∧ exec .seek (withArg 5 (keyedAt 16)) = .next t') :=
  ⟨⟨_, rfl, rfl, rfl⟩, ⟨_, _, by decide, rfl, rfl, rfl, rfl, rfl⟩⟩

/-- At offset 0 with the ends of BUF and an empty range; at the last offset only LEN = 0; and up to the last offset. -/
theorem witness_XorAppliesTheKeystreamLaw :
    ((keyedAt 0).ksReady = true ∧ KSI (keyedAt 0).ks ∧ (0 : BitVec 8).toNat + (256 : BitVec 9).toNat ≤ 256 ∧
      (255 : BitVec 8).toNat + (1 : BitVec 9).toNat ≤ 256 ∧ (keyedAt 0).ks.pos.toNat + (256 : BitVec 9).toNat ≤ 2 ^ 63 - 1) ∧
    ((keyedAt 0x7FFFFFFFFFFFFFFF).ksReady = true ∧ KSI (keyedAt 0x7FFFFFFFFFFFFFFF).ks ∧
      (keyedAt 0x7FFFFFFFFFFFFFFF).ks.pos.toNat + (0 : BitVec 9).toNat ≤ 2 ^ 63 - 1) ∧
    ((keyedAt 5).ksReady = true ∧ KSI (keyedAt 5).ks ∧ (keyedAt 5).ks.pos.toNat + (1 : BitVec 9).toNat ≤ 2 ^ 63 - 1) :=
  ⟨⟨keyedAt_ksReady _, witness_KSI.1, by decide, by decide, by decide⟩,
   ⟨keyedAt_ksReady _, witness_KSI.2.2.2, by decide⟩, ⟨keyedAt_ksReady _, witness_KSI.2.2.1, by decide⟩⟩

/-- `keyed` after XOR 0, 1. -/
def xored : State := complete .ok (advancePos 1 (xorBytes 1 0 keyed))

theorem exec_xored : exec (.xor 0 1) keyed = .next xored := rfl

/-- `xored` after SEEK 0, ARG being 0. -/
def sought : State := complete .ok { xored with ks := seekKeystream xored.ks 0 }

theorem bufByte_sought (b : State) (k : Keystream) (i : Nat) : bufByte (complete .ok { b with ks := k }) i = bufByte b i := rfl

theorem witness_XorRoundTrip :
    keyed.ksReady = true ∧ KSI keyed.ks ∧ (0 : BitVec 8).toNat + (1 : BitVec 9).toNat ≤ 256 ∧
    keyed.ks.pos.toNat + (1 : BitVec 9).toNat ≤ 2 ^ 63 - 1 ∧ exec (.xor 0 1) keyed = .next xored ∧ xored.ks = xored.ks ∧
    SameRam xored xored ∧ seekPos xored = keyed.ks.pos.toNat ∧ exec .seek xored = .next sought ∧
    ∃ x, exec (.xor 0 1) sought = .next x :=
  ⟨rfl, witness_KSI.1, by decide, by decide, exec_xored, rfl, fun _ => rfl, rfl, rfl, _, rfl⟩

/-- The data of one XOR decrypted after a CLOSE-free history that left another position, here the start. -/
theorem witness_RandomAccessDecrypts :
    keyed.ksReady = true ∧ KSI keyed.ks ∧ KSI sought.ks ∧ sought.ks.key = keyed.ks.key ∧ sought.ks.ivb = keyed.ks.ivb ∧
    exec (.xor 0 1) keyed = .next xored ∧ xored.err = .ok ∧ sought.ks.pos.toNat = keyed.ks.pos.toNat + 0 ∧
    0 + (1 : BitVec 9).toNat ≤ (1 : BitVec 9).toNat ∧ (0 : BitVec 8).toNat + (1 : BitVec 9).toNat ≤ 256 ∧
    ∀ i < (1 : BitVec 9).toNat, bufByte sought ((0 : BitVec 8).toNat + i) = bufByte xored ((0 : BitVec 8).toNat + (0 + i)) :=
  ⟨rfl, witness_KSI.1, ⟨by decide, by decide, fun h => absurd rfl h, fun _ => by decide⟩, rfl, rfl, exec_xored, rfl, rfl,
   by decide, by decide, fun i _ => by rw [Nat.zero_add]; exact bufByte_sought _ _ _⟩

theorem witness_CounterNeverWraps :
    KSI (keyedAt 0x7FFFFFFFFFFFFFFF).ks ∧ (keyedAt 0x7FFFFFFFFFFFFFFF).ks.ctr.toNat = 2 ^ 59 :=
  ⟨witness_KSI.2.2.2, by decide⟩

theorem witness_DgAbsorbFollowsTheByteLoop :
    (digesting 135).dg.active = true ∧ (0 : BitVec 8).toNat + (256 : BitVec 9).toNat ≤ 256 ∧
    (255 : BitVec 8).toNat + (1 : BitVec 9).toNat ≤ 256 ∧ (digesting 134).dg.sponge.idx.val < 135 ∧
    (digesting 135).dg.sponge.idx.val = 135 := by decide

theorem witness_AbsorbSplits :
    ∃ t u v, (digesting 0).dg.active = true ∧ (0 : BitVec 8).toNat + (256 : BitVec 9).toNat ≤ 256 ∧
      (1 : BitVec 8).toNat = (0 : BitVec 8).toNat + (1 : BitVec 9).toNat ∧
      (256 : BitVec 9).toNat = (1 : BitVec 9).toNat + (255 : BitVec 9).toNat ∧ exec (.dgAbsorb 0 1) (digesting 0) = .next t ∧
      exec (.dgAbsorb 1 255) t = .next u ∧ exec (.dgAbsorb 0 256) (digesting 0) = .next v :=
  ⟨_, _, _, rfl, by decide, by decide, by decide, rfl, rfl, rfl⟩

theorem witness_DgFinalsWriteTheirDigest : (digesting 0).dg.active = true ∧ (digesting 135).dg.active = true := by decide

theorem witness_DigestCommandsComputeSha3 :
    ∀ c ∈ [List.replicate 256 0x41#8, [], [0x42#8]], c.length ≤ 256 := by
  intro c hc
  simp only [List.mem_cons, List.not_mem_nil, or_false] at hc
  rcases hc with rfl | rfl | rfl <;> simp only [List.length_replicate, List.length_nil, List.length_cons] <;> omega

theorem witness_HdrBuildWritesTheLayout : HeaderReady (withKeylen 0 digested) ∧ HeaderReady (withKeylen 1 digested) :=
  ⟨headerReady_keylens.1, headerReady_keylens.2.1⟩

theorem witness_HdrCheckRecordsEveryMismatch :
    HeaderReady (withKeylen 2 digested) ∧ (127 : BitVec 9).toNat < 128 ∧ 128 ≤ (128 : BitVec 9).toNat :=
  ⟨headerReady_keylens.2.2, by decide, by decide⟩

/-- `digested` after HDR_BUILD. -/
def built : State := complete .ok (writeRamBytes hdrBase (headerImage digested.cfg digested.dg) digested)

theorem witness_BuiltHeaderPassesItsCheck : HeaderReady digested ∧ exec .hdrBuild digested = .next built :=
  ⟨headerReady_keylens.2.2, rfl⟩

/-- `b` reconfigured: another KEYLEN, ROUNDS, password digest or salt digest. -/
def rebuilt (b : State) (c : ConfigRegs) (d : DigestUnit) : State := { b with cfg := c, dg := d }

theorem hdrByte_rebuilt (b : State) (c : ConfigRegs) (d : DigestUnit) (j : Nat) : hdrByte (rebuilt b c d) j = hdrByte b j := rfl

theorem headerReady_rebuilt (b : State) (c : ConfigRegs) (d : DigestUnit) :
    HeaderReady (rebuilt b c d) ↔ c.keylen ≠ 3#2 ∧ d.pwdDv = true ∧ d.saltDv = true := Iff.rfl

/-- The same HDR under another KEYLEN, another ROUNDS, another password digest and another salt digest. -/
theorem witness_WrongCredentialsAreRejected :
    HeaderReady digested ∧ exec .hdrBuild digested = .next built ∧
    (∀ c d, ∀ j < 128, hdrByte (rebuilt built c d) j = hdrByte built j) ∧
    (HeaderReady (rebuilt built { digested.cfg with keylen := 1 } digested.dg) ∧ (1 : BitVec 2) ≠ digested.cfg.keylen) ∧
    (HeaderReady (rebuilt built { digested.cfg with rounds := 6 } digested.dg) ∧ (6 : Word) ≠ digested.cfg.rounds) ∧
    (HeaderReady (rebuilt built digested.cfg { digested.dg with pwd := Vector.replicate 32 1 }) ∧
      Vector.replicate 32 1 ≠ digested.dg.pwd) ∧
    (HeaderReady (rebuilt built digested.cfg { digested.dg with salt := Vector.replicate 32 1 }) ∧
      Vector.replicate 32 1 ≠ digested.dg.salt) := by
  refine ⟨headerReady_keylens.2.2, witness_BuiltHeaderPassesItsCheck.2, fun c d j _ => hdrByte_rebuilt _ c d j, ?_, ?_, ?_, ?_⟩ <;>
    rw [headerReady_rebuilt] <;> decide

/-- An illegal word, an error of a command, and HEADER_INVALID. -/
theorem witness_ErrorsChangeNothingElse :
    (after (executeWord exec 0xFF keyed)).err = .illegalCmd ∧ (after (executeWord exec 2 State.reset)).err = .notInit ∧
    (after (executeWord exec 0x00007F09 digested)).err = .headerInvalid := by decide

theorem witness_FirstErrorIsReported :
    decode 0x02000003#32 = .error .reservedNotZero ∧ decode 0x00090003#32 = .ok (.xor 4 256) := by decide

theorem witness_StepKeepsTheDataInvariant :
    ∃ t, (sending (regWrite (.buf 63) 1) (busyWith 0 1 keyed)).wf = true ∧
      step (sending (regWrite (.buf 63) 1) (busyWith 0 1 keyed)) = .next t := ⟨_, by decide, rfl⟩

theorem witness_StepKeepsTheKeystreamInvariant :
    ∃ t, (busyWith 0x103 1 keyed).keystreamOk ∧ step (busyWith 0x103 1 keyed) = .next t :=
  ⟨_, ⟨fun _ => witness_KSI.1, fun h => absurd h (by decide)⟩, rfl⟩

theorem witness_StepKeepsAClosedSpongeZero :
    ∃ t, (busyWith 6 1 (digesting 5)).digestOk ∧ step (busyWith 6 1 (digesting 5)) = .next t :=
  ⟨_, fun h => absurd h (by decide), rfl⟩

/-- A step that changes POS, one that changes KS_KEY and IVB_L, one that changes HDR_RESULT. -/
theorem witness_OnlyTheseWriteTheResults :
    (after (step (busyWith 2 1 (withArg 16 keyed)))).ks.pos ≠ keyed.ks.pos ∧
    (after (step (busyWith 1 1 keyed))).ks.key ≠ keyed.ks.key ∧
    (after (step (busyWith 0x00007F09 1 digested))).hdrResult ≠ digested.hdrResult ∧
    ¬ResetComing (busyWith 2 1 (withArg 16 keyed)) ∧ ¬ResetComing (busyWith 1 1 keyed) ∧
    ¬ResetComing (busyWith 0x00007F09 1 digested) := by
  unfold ResetComing; decide

theorem sha3_empty_ne : spongeDigest (digesting 0).dg.sponge ≠ Vector.replicate 32 0#8 := fun e => by
  have h := test_sha3_empty
  have he : sha3_256 [] = spongeDigest (digesting 0).dg.sponge := rfl
  rw [he, e] at h
  exact absurd h (by decide)

/-- DG_FINAL_PWD and DG_FINAL_SALT change a digest from its reset value to that of the empty message. -/
theorem witness_OnlyTheseWriteTheResults_digests :
    (∃ t, step (busyWith 6 1 (digesting 0)) = .next t ∧ t.dg.pwd ≠ (busyWith 6 1 (digesting 0)).dg.pwd) ∧
    (∃ t, step (busyWith 7 1 (digesting 0)) = .next t ∧ t.dg.salt ≠ (busyWith 7 1 (digesting 0)).dg.salt) ∧
    ¬ResetComing (busyWith 6 1 (digesting 0)) ∧ ¬ResetComing (busyWith 7 1 (digesting 0)) := by
  refine ⟨⟨complete .ok { busyWith 6 1 (digesting 0) with dg := { closeDigest (digesting 0).dg with
      pwd := spongeDigest (digesting 0).dg.sponge, pwdDv := true } }, rfl, sha3_empty_ne⟩,
    ⟨complete .ok { busyWith 7 1 (digesting 0) with dg := { closeDigest (digesting 0).dg with
      salt := spongeDigest (digesting 0).dg.sponge, saltDv := true } }, rfl, sha3_empty_ne⟩, ?_, ?_⟩ <;>
  unfold ResetComing <;> decide

/-- Steps that change KEYLEN, ROUNDS, ARG, IVB and KEY: the host's writes. -/
theorem witness_OnlyTheseWriteTheResults_host :
    (after (step (sending (regWrite .ctrl 1) keyed))).cfg.keylen ≠ keyed.cfg.keylen ∧
    (after (step (sending (regWrite .rounds 6) keyed))).cfg.rounds ≠ keyed.cfg.rounds ∧
    (after (step (sending (regWrite .argLo 1) keyed))).cfg.argLo ≠ keyed.cfg.argLo ∧
    (after (step (sending (regWrite .argHi 1) keyed))).cfg.argHi ≠ keyed.cfg.argHi ∧
    nth (after (step (sending (regWrite (.ivb 1) 1) keyed))).cfg.ivb 1 0 ≠ nth keyed.cfg.ivb 1 0 ∧
    nth (after (step (sending (regWrite (.key 7) 1) keyed))).cfg.key 7 0 ≠ nth keyed.cfg.key 7 0 := by decide

/-- A step that changes a KEY word without the host: CLOSE. -/
theorem witness_OnlyTheseWriteTheResults_close :
    nth (after (step (busyWith 0xA 1 { keyed with cfg := { keyed.cfg with key := Vector.replicate 8 1 } }))).cfg.key 0 0 ≠ 1 := by
  decide

theorem witness_DutifulHostNeverStops :
    dutifulInbox (sending (.read 0x060 .word) keyed) = true ∧ dutifulInbox (resetting keyed) = true := by decide

theorem witness_InstancesAreIndependent : ∃ sys, systemStep (0 : Fin 2) (Vector.replicate 2 keyed) = .next sys := ⟨_, rfl⟩

end Sys2Proof.Tests
end

section
/-! SUPPORT. The rules of the state operations: what a write of HDR or BUF, SEEK, XOR's loop and an accepted register
write leave alone, and what a read finds after a write. -/

namespace Sys2Proof.Proofs

open Sys2Proof.Machine Sys2Proof.Claims

/-! ### Frames of the memory writes, of SEEK and of XOR's loop -/

@[simp] theorem writeRamBytes_cfg (a : Nat) (bs : List Byte) (s : State) : (writeRamBytes a bs s).cfg = s.cfg := by
  rw [writeRamBytes_eq]

@[simp] theorem writeRamBytes_pend (a : Nat) (bs : List Byte) (s : State) : (writeRamBytes a bs s).pend = s.pend := by
  rw [writeRamBytes_eq]

@[simp] theorem writeRamBytes_lastCmd (a : Nat) (bs : List Byte) (s : State) :
    (writeRamBytes a bs s).lastCmd = s.lastCmd := by
  rw [writeRamBytes_eq]

@[simp] theorem writeRamBytes_err (a : Nat) (bs : List Byte) (s : State) : (writeRamBytes a bs s).err = s.err := by
  rw [writeRamBytes_eq]

@[simp] theorem writeRamBytes_hdrOk (a : Nat) (bs : List Byte) (s : State) : (writeRamBytes a bs s).hdrOk = s.hdrOk := by
  rw [writeRamBytes_eq]

@[simp] theorem writeRamBytes_hdrResult (a : Nat) (bs : List Byte) (s : State) :
    (writeRamBytes a bs s).hdrResult = s.hdrResult := by
  rw [writeRamBytes_eq]

@[simp] theorem writeRamBytes_irqEn (a : Nat) (bs : List Byte) (s : State) : (writeRamBytes a bs s).irqEn = s.irqEn := by
  rw [writeRamBytes_eq]

@[simp] theorem writeRamBytes_irqStatus (a : Nat) (bs : List Byte) (s : State) :
    (writeRamBytes a bs s).irqStatus = s.irqStatus := by
  rw [writeRamBytes_eq]

@[simp] theorem writeRamBytes_ks (a : Nat) (bs : List Byte) (s : State) : (writeRamBytes a bs s).ks = s.ks := by
  rw [writeRamBytes_eq]

@[simp] theorem writeRamBytes_dg (a : Nat) (bs : List Byte) (s : State) : (writeRamBytes a bs s).dg = s.dg := by
  rw [writeRamBytes_eq]

@[simp] theorem writeRamBytes_remaining (a : Nat) (bs : List Byte) (s : State) :
    (writeRamBytes a bs s).remaining = s.remaining := by
  rw [writeRamBytes_eq]

@[simp] theorem seekKeystream_key (ks : Keystream) (p : DWord) : (seekKeystream ks p).key = ks.key := by
  unfold seekKeystream; dsimp only; split <;> rfl

@[simp] theorem seekKeystream_ivb (ks : Keystream) (p : DWord) : (seekKeystream ks p).ivb = ks.ivb := by
  unfold seekKeystream; dsimp only; split <;> rfl

@[simp] theorem xorBytes_cfg (n i : Nat) (s : State) : (xorBytes n i s).cfg = s.cfg := by rw [(xorBytes_frame n i s).1]

@[simp] theorem xorBytes_pend (n i : Nat) (s : State) : (xorBytes n i s).pend = s.pend := by rw [(xorBytes_frame n i s).1]

@[simp] theorem xorBytes_hdrResult (n i : Nat) (s : State) : (xorBytes n i s).hdrResult = s.hdrResult := by
  rw [(xorBytes_frame n i s).1]

@[simp] theorem xorBytes_dg (n i : Nat) (s : State) : (xorBytes n i s).dg = s.dg := by rw [(xorBytes_frame n i s).1]

@[simp] theorem xorBytes_remaining (n i : Nat) (s : State) : (xorBytes n i s).remaining = s.remaining := by
  rw [(xorBytes_frame n i s).1]

@[simp] theorem xorBytes_ks_key (n i : Nat) (s : State) : (xorBytes n i s).ks.key = s.ks.key := (xorBytes_frame n i s).2.1

@[simp] theorem xorBytes_ks_ivb (n i : Nat) (s : State) : (xorBytes n i s).ks.ivb = s.ks.ivb := (xorBytes_frame n i s).2.2.1

@[simp] theorem xorBytes_ks_pos (n i : Nat) (s : State) : (xorBytes n i s).ks.pos = s.ks.pos :=
  (xorBytes_frame n i s).2.2.2

/-! ### What an accepted write leaves alone -/

@[simp] theorem storeReg_lastCmd (r : Reg) (v : Word) (s : State) : (storeReg r v s).lastCmd = s.lastCmd := by
  cases r <;> simp [storeReg, storeRam]

@[simp] theorem storeReg_err (r : Reg) (v : Word) (s : State) : (storeReg r v s).err = s.err := by
  cases r <;> simp [storeReg, storeRam]

@[simp] theorem storeReg_hdrOk (r : Reg) (v : Word) (s : State) : (storeReg r v s).hdrOk = s.hdrOk := by
  cases r <;> simp [storeReg, storeRam]

@[simp] theorem storeReg_hdrResult (r : Reg) (v : Word) (s : State) : (storeReg r v s).hdrResult = s.hdrResult := by
  cases r <;> simp [storeReg, storeRam]

@[simp] theorem storeReg_ks (r : Reg) (v : Word) (s : State) : (storeReg r v s).ks = s.ks := by
  cases r <;> simp [storeReg, storeRam]

@[simp] theorem storeReg_dg (r : Reg) (v : Word) (s : State) : (storeReg r v s).dg = s.dg := by
  cases r <;> simp [storeReg, storeRam]

theorem storeReg_pend {r : Reg} (h : r ≠ .cmd) (v : Word) (s : State) : (storeReg r v s).pend = s.pend := by
  cases r <;> simp_all [storeReg, storeRam]

theorem storeReg_irqEn {r : Reg} (h : r ≠ .irqEn) (v : Word) (s : State) : (storeReg r v s).irqEn = s.irqEn := by
  cases r <;> simp_all [storeReg, storeRam]

theorem storeReg_irqStatus {r : Reg} (h : r ≠ .irqStatus) (v : Word) (s : State) :
    (storeReg r v s).irqStatus = s.irqStatus := by
  cases r <;> simp_all [storeReg, storeRam]

theorem storeReg_keylen {r : Reg} (h : r ≠ .ctrl) (v : Word) (s : State) :
    (storeReg r v s).cfg.keylen = s.cfg.keylen := by
  cases r <;> simp_all [storeReg, storeRam]

theorem storeReg_rounds {r : Reg} (h : r ≠ .rounds) (v : Word) (s : State) :
    (storeReg r v s).cfg.rounds = s.cfg.rounds := by
  cases r <;> simp_all [storeReg, storeRam]

theorem storeReg_argLo {r : Reg} (h : r ≠ .argLo) (v : Word) (s : State) :
    (storeReg r v s).cfg.argLo = s.cfg.argLo := by
  cases r <;> simp_all [storeReg, storeRam]

theorem storeReg_argHi {r : Reg} (h : r ≠ .argHi) (v : Word) (s : State) :
    (storeReg r v s).cfg.argHi = s.cfg.argHi := by
  cases r <;> simp_all [storeReg, storeRam]

/-- An IVB word changes by a write to its own register alone. -/
theorem storeReg_ivb {r : Reg} {k : Fin 2} (h : r ≠ .ivb k) (v : Word) (s : State) :
    nth (storeReg r v s).cfg.ivb k.val 0 = nth s.cfg.ivb k.val 0 := by
  cases r with
  | ivb j =>
    have hj : j.val ≠ k.val := fun e => h (by rw [Fin.ext e])
    simp [storeReg, nth_setIfInBounds, hj]
  | _ => simp [storeReg, storeRam]

/-- A KEY word changes by a write to its own register alone. -/
theorem storeReg_key {r : Reg} {k : Fin 8} (h : r ≠ .key k) (v : Word) (s : State) :
    nth (storeReg r v s).cfg.key k.val 0 = nth s.cfg.key k.val 0 := by
  cases r with
  | key j =>
    have hj : j.val ≠ k.val := fun e => h (by rw [Fin.ext e])
    simp [storeReg, nth_setIfInBounds, hj]
  | _ => simp [storeReg, storeRam]

/-! ### Reading a register of HDR or BUF after a write -/

theorem readRam_storeRam_other {a x : Nat} (v : Word) (s : State) (h : x < a ∨ a + 4 ≤ x) :
    readRam (storeRam a v s) x = readRam s x := by
  rw [storeRam, readRam_writeRamBytes, if_neg (by rw [le32_length]; omega)]

theorem readRam_storeRam_same {j : Nat} (a : Nat) (v : Word) (s : State) (hj : j < 4) :
    readRam (storeRam a v s) (a + j) = wordByte v j := by
  rw [storeRam, readRam_writeRamBytes, if_pos (by rw [le32_length]; omega), Nat.add_sub_cancel_left]
  interval_cases j <;> rfl

theorem ramWord_storeRam_same (a : Nat) (v : Word) (s : State) : ramWord (storeRam a v s) a = v :=
  calc ramWord (storeRam a v s) a
    _ = packWord (wordByte v 0) (wordByte v 1) (wordByte v 2) (wordByte v 3) := by
      simp (disch := omega) only [ramWord, readRam_storeRam_same]
      rw [← readRam_storeRam_same a v s (show 0 < 4 by omega), Nat.add_zero]
    _ = v := packWord_wordByte v

theorem ramWord_storeRam_other {a x : Nat} (v : Word) (s : State) (h : x + 4 ≤ a ∨ a + 4 ≤ x) :
    ramWord (storeRam a v s) x = ramWord s x := by
  simp (disch := omega) only [ramWord, readRam_storeRam_other]

theorem ramWord_congr {s t : State} (hm : t.mem = s.mem) (he : t.epoch = s.epoch) (a : Nat) :
    ramWord t a = ramWord s a := by
  simp only [ramWord, readRam_congr hm he]

/-- An HDR word changes by a write to its own register alone. -/
theorem ramWord_storeReg_hdr {r : Reg} {k : Fin 32} (h : r ≠ .hdr k) (v : Word) (s : State) :
    ramWord (storeReg r v s) (hdrBase + 4 * k.val) = ramWord s (hdrBase + 4 * k.val) := by
  cases r with
  | hdr j =>
    have hj : j.val ≠ k.val := fun e => h (by rw [Fin.ext e])
    exact ramWord_storeRam_other v s (by omega)
  | buf j => exact ramWord_storeRam_other v s (by simp only [hdrBase, bufBase]; omega)
  | _ => exact ramWord_congr rfl rfl _

/-- A BUF word changes by a write to its own register alone. -/
theorem ramWord_storeReg_buf {r : Reg} {k : Fin 64} (h : r ≠ .buf k) (v : Word) (s : State) :
    ramWord (storeReg r v s) (bufBase + 4 * k.val) = ramWord s (bufBase + 4 * k.val) := by
  cases r with
  | hdr j => exact ramWord_storeRam_other v s (by simp only [hdrBase, bufBase]; omega)
  | buf j =>
    have hj : j.val ≠ k.val := fun e => h (by rw [Fin.ext e])
    exact ramWord_storeRam_other v s (by omega)
  | _ => exact ramWord_congr rfl rfl _

end Sys2Proof.Proofs
end

section
/-! SUPPORT. What the commands and the transactions do, said once, and how an invariant follows from it. -/

namespace Sys2Proof.Proofs

open Sys2Proof.Machine Sys2Proof.Claims

/-! ### What the commands do -/

/-- `Effect i s s'`: what command `i`, run at `s`, may leave in `s'` before its completion is recorded. `unchanged` is
NOP and every error but HEADER_INVALID (R104), which comes after `hdrCheck`'s writes. The hypotheses are the passed
checks that an invariant needs. `exec_effect` ties it to `exec`. -/
inductive Effect : Instr → State → State → Prop
  | unchanged (i : Instr) (s : State) : Effect i s s
  | init (s : State) : Effect .init s { s with ks := initKeystream s.cfg }
  | seek (s : State) (ready : s.ksReady = true) (range : (seekOffset s.cfg).toNat < 2 ^ 63) :
      Effect .seek s { s with ks := seekKeystream s.ks (seekOffset s.cfg) }
  | xor (s : State) (off : BitVec 8) (len : BitVec 9) (ready : s.ksReady = true)
      (inBuf : off.toNat + len.toNat ≤ 256) (range : s.ks.pos.toNat + len.toNat ≤ 2 ^ 63 - 1) :
      Effect (.xor off len) s (advancePos len (xorBytes len.toNat off.toNat s))
  | dgInit (s : State) : Effect .dgInit s { s with dg := { s.dg with sponge := Sponge.zero, active := true } }
  | dgAbsorb (s : State) (off : BitVec 8) (len : BitVec 9) (active : s.dg.active = true) :
      Effect (.dgAbsorb off len) s
        { s with dg := { s.dg with sponge := absorbBytes s.dg.sponge (bufSlice s off.toNat len.toNat) } }
  | dgFinalPwd (s : State) :
      Effect .dgFinalPwd s
        { s with dg := { closeDigest s.dg with pwd := spongeDigest s.dg.sponge, pwdDv := true } }
  | dgFinalSalt (s : State) :
      Effect .dgFinalSalt s
        { s with dg := { closeDigest s.dg with salt := spongeDigest s.dg.sponge, saltDv := true } }
  | hdrBuild (s : State) : Effect .hdrBuild s (writeRamBytes hdrBase (headerImage s.cfg s.dg) s)
  | hdrCheck (s : State) (len : BitVec 9) : Effect (.hdrCheck len) s (recordCheck (headerResult s len) s)
  | close (s : State) : Effect .close s (forgetKey s)

/-- Every command is one of the effects and then its completion. -/
theorem exec_effect (i : Instr) (s : State) : ∃ e s', Effect i s s' ∧ exec i s = .next (complete e s') := by
  cases i with
  | nop => exact ⟨_, _, .unchanged _ s, rfl⟩
  | init =>
    rcases execInit_cases s with ⟨-, h⟩ | ⟨-, h⟩
    · exact ⟨_, _, .unchanged _ s, h⟩
    · exact ⟨_, _, .init s, h⟩
  | seek =>
    rcases execSeek_cases s with ⟨-, h⟩ | ⟨-, -, h⟩ | ⟨ready, range, h⟩
    · exact ⟨_, _, .unchanged _ s, h⟩
    · exact ⟨_, _, .unchanged _ s, h⟩
    · exact ⟨_, _, .seek s ready range, h⟩
  | xor off len =>
    rcases execXor_cases off len s with ⟨-, h⟩ | ⟨-, -, h⟩ | ⟨-, -, -, h⟩ | ⟨ready, inBuf, range, h⟩
    · exact ⟨_, _, .unchanged _ s, h⟩
    · exact ⟨_, _, .unchanged _ s, h⟩
    · exact ⟨_, _, .unchanged _ s, h⟩
    · exact ⟨_, _, .xor s off len ready inBuf range, h⟩
  | dgInit => exact ⟨_, _, .dgInit s, rfl⟩
  | dgAbsorb off len =>
    rcases execDgAbsorb_cases off len s with ⟨-, h⟩ | ⟨-, -, h⟩ | ⟨active, -, h⟩
    · exact ⟨_, _, .unchanged _ s, h⟩
    · exact ⟨_, _, .unchanged _ s, h⟩
    · exact ⟨_, _, .dgAbsorb s off len active, h⟩
  | dgFinalPwd =>
    rcases execDgFinalPwd_cases s with ⟨-, h⟩ | ⟨-, h⟩
    · exact ⟨_, _, .unchanged _ s, h⟩
    · exact ⟨_, _, .dgFinalPwd s, h⟩
  | dgFinalSalt =>
    rcases execDgFinalSalt_cases s with ⟨-, h⟩ | ⟨-, h⟩
    · exact ⟨_, _, .unchanged _ s, h⟩
    · exact ⟨_, _, .dgFinalSalt s, h⟩
  | hdrBuild =>
    rcases execHdrBuild_cases s with ⟨-, h⟩ | ⟨-, -, h⟩ | ⟨-, -, -, h⟩
    · exact ⟨_, _, .unchanged _ s, h⟩
    · exact ⟨_, _, .unchanged _ s, h⟩
    · exact ⟨_, _, .hdrBuild s, h⟩
  | hdrCheck len =>
    rcases execHdrCheck_cases len s with ⟨-, h⟩ | ⟨-, -, h⟩ | ⟨-, -, -, -, h⟩ | ⟨-, -, -, -, h⟩
    · exact ⟨_, _, .unchanged _ s, h⟩
    · exact ⟨_, _, .unchanged _ s, h⟩
    · exact ⟨_, _, .hdrCheck s len, h⟩
    · exact ⟨_, _, .hdrCheck s len, h⟩
  | close => exact ⟨_, _, .close s, rfl⟩

/-- A word completes with the effect of the command it decodes to, or, if it is illegal, with none. -/
theorem executeWord_effect {w : Word} {s t : State} (h : executeWord exec w s = .next t) :
    ∃ e s', t = complete e s' ∧ (s' = s ∨ ∃ i, decode w = .ok i ∧ Effect i s s') := by
  unfold executeWord at h
  cases hd : decode w with
  | ok i =>
    obtain ⟨e, s', heff, hexec⟩ := exec_effect i s
    simp only [hd, hexec, Host.Outcome.next.injEq] at h
    exact ⟨e, s', h.symm, .inr ⟨i, rfl, heff⟩⟩
  | error err =>
    simp only [hd, raise, Host.Outcome.next.injEq] at h
    exact ⟨_, s, h.symm, .inl rfl⟩

/-- No effect touches PEND. -/
theorem Effect.pend_eq {i : Instr} {s s' : State} (h : Effect i s s') : s'.pend = s.pend := by
  cases h <;> simp

/-- No effect touches the count of LAT. -/
theorem Effect.remaining_eq {i : Instr} {s s' : State} (h : Effect i s s') : s'.remaining = s.remaining := by
  cases h <;> simp

/-! ### What an OKAY transaction does -/

/-- An OKAY transaction leaves the state, counts a draw, sets WERR, or stores the word it writes. -/
theorem accessReg_state (q : BusReq) (r : Reg) (s : State) :
    (accessReg q r s).2 = s ∨ (accessReg q r s).2 = drawn s ∨ (accessReg q r s).2 = setWerr s ∨
    ∃ o z b v, q = .write o z b v ∧ (s.busy = false ∨ r = .irqEn ∨ r = .irqStatus) ∧
      (accessReg q r s).2 = storeReg r v s := by
  cases q with
  | read o z => rcases readReg_state r s with h | h <;> simp [accessReg, h]
  | write o z b v =>
    simp only [accessReg, writeReg]
    split
    · exact .inl rfl
    · split
      · exact .inr (.inr (.inl rfl))
      · rename_i hb
        refine .inr (.inr (.inr ⟨o, z, b, v, rfl, ?_, rfl⟩))
        by_cases hbusy : s.busy = true
        · exact .inr (or_iff_not_imp_left.2 (by simpa [hbusy, regBusyWritable] using hb))
        · exact .inl (by simpa using hbusy)

@[simp] theorem accessReg_ks (q : BusReq) (r : Reg) (s : State) : (accessReg q r s).2.ks = s.ks := by
  rcases accessReg_state q r s with h | h | h | ⟨o, z, b, v, -, -, h⟩ <;> simp [h]

@[simp] theorem accessReg_dg (q : BusReq) (r : Reg) (s : State) : (accessReg q r s).2.dg = s.dg := by
  rcases accessReg_state q r s with h | h | h | ⟨o, z, b, v, -, -, h⟩ <;> simp [h]

/-! ### Invariants of every step -/

/-- What makes a property an invariant of `step`: each part of a cycle keeps it, and reset brings it about. -/
structure KeptByCycleParts (P : State → Prop) : Prop where
  reset : ∀ bus s, P (resetCycle bus s)
  takeInput : ∀ s, P s → P (takeInput s)
  access : ∀ q r s, P s → P { (accessReg q r s).2 with resp := some (accessReg q r s).1 }
  wait : ∀ s, P s → s.busy = true → 1 < s.remaining → P { s with remaining := s.remaining - 1 }
  effect : ∀ i s s', Effect i s s' → P s → P s'
  complete : ∀ e s, P s → P (complete e s)

theorem KeptByCycleParts.busPhase {P : State → Prop} (hP : KeptByCycleParts P) {bus : Option BusReq} {s s1 : State}
    (h : busPhase bus s = .next s1) (hs : P s) : P s1 := by
  rcases busPhase_cases bus s with ⟨-, hb⟩ | ⟨q, r, -, -, hb⟩ | ⟨q, -, -, hb⟩ <;> rw [hb] at h <;> cases h
  · exact hs
  · exact hP.access q r s hs

theorem KeptByCycleParts.step {P : State → Prop} (hP : KeptByCycleParts P) {s t : State} (hs : P s)
    (h : step s = .next t) : P t := by
  rcases step_cases h with ⟨-, rfl⟩ | ⟨-, s1, hb, hcase⟩
  · exact hP.reset _ _
  · have h1 : P s1 := hP.busPhase hb (hP.takeInput s hs)
    rcases hcase with ⟨-, rfl⟩ | ⟨w, hw, hrem, rfl⟩ | ⟨w, -, -, hx⟩
    · exact h1
    · have hs1 := busPhase_busy (by simp [State.busy, hw]) hb
      have hbusy : s1.busy = true := by rw [hs1]; simp [State.busy, hw]
      have hr : s1.remaining = s.remaining := by rw [hs1]; rfl
      exact hr ▸ hP.wait s1 h1 hbusy (hr ▸ hrem)
    · obtain ⟨e, s', rfl, rfl | ⟨i, -, heff⟩⟩ := executeWord_effect hx
      · exact hP.complete e _ h1
      · exact hP.complete e s' (hP.effect i s1 s' heff h1)

end Sys2Proof.Proofs
end

section
/-! SUPPORT. Every step keeps the data invariant (O49). -/

namespace Sys2Proof.Proofs

open Sys2Proof.Machine Sys2Proof.Claims

/-! ### The data invariant -/

theorem state_wf_iff (s : State) :
    s.wf = true ↔ Memory.wf s.mem = true ∧ keyLengthOk s.ks = true ∧ hdrResultOk s.hdrResult = true ∧
      pendingOk s = true := by
  simp [State.wf, and_assoc]

/-- The word that HDR_CHECK computes has its reserved bits 0 (R91, R30). -/
theorem hdrResultOk_headerResult (s : State) (len : BitVec 9) : hdrResultOk (headerResult s len) = true := by
  have hbits : headerResult s len &&& 0xFFFF0080#32 = 0#32 := by
    unfold headerResult
    split
    · decide
    · apply BitVec.eq_of_getLsbD_eq
      intro i hi
      simp only [BitVec.getLsbD_and, BitVec.getLsbD_append]
      interval_cases i <;> simp
  simpa [hdrResultOk] using hbits

/-- INIT latches a key of a legal length (R74, R38). -/
theorem keyLengthOk_initKeystream (c : ConfigRegs) : keyLengthOk (initKeystream c) = true := by
  rcases keyBytes_cases c with h | h | h <;> simp [keyLengthOk, initKeystream, h]

theorem keyLengthOk_congr {ks ks' : Keystream} (h : ks'.key = ks.key) : keyLengthOk ks' = keyLengthOk ks := by
  simp only [keyLengthOk, h]

theorem pendingOk_congr {s t : State} (hp : t.pend = s.pend) (hr : t.remaining = s.remaining) :
    pendingOk t = pendingOk s := by
  simp only [pendingOk, hp, hr]

/-- A register write keeps the memories in canonical form. -/
theorem storeReg_mem_wf (r : Reg) (v : Word) (s : State) (h : Memory.wf s.mem = true) :
    Memory.wf (storeReg r v s).mem = true := by
  cases r with
  | hdr k =>
    refine writeRamBytes_wf (le32 v) _ s h fun j hj => ?_
    rw [le32_length] at hj
    rw [Nat.add_assoc]
    exact ramAddr_hdr (by omega)
  | buf k =>
    refine writeRamBytes_wf (le32 v) _ s h fun j hj => ?_
    rw [le32_length] at hj
    rw [Nat.add_assoc]
    exact ramAddr_buf (by omega)
  | _ => exact h

/-- A register write either leaves PEND and the count of LAT alone, or issues a command with cycles to go. -/
theorem storeReg_pendingOk (r : Reg) (v : Word) (s : State) (h : pendingOk s = true) :
    pendingOk (storeReg r v s) = true := by
  cases r with
  | cmd => simp [storeReg, pendingOk]
  | _ => rw [← h]; exact pendingOk_congr (by simp [storeReg, storeRam]) (by simp [storeReg, storeRam])

/-- Every effect keeps the memories in canonical form: XOR stays in BUF, HDR_BUILD in HDR. -/
theorem Effect.keeps_mem_wf {i : Instr} {s s' : State} (h : Effect i s s') (hs : Memory.wf s.mem = true) :
    Memory.wf s'.mem = true := by
  cases h with
  | xor _ off len ready inBuf range => exact xorBytes_wf len.toNat off.toNat s hs inBuf
  | hdrBuild =>
    exact writeRamBytes_wf _ _ s hs fun j hj => ramAddr_hdr (by rwa [headerImage_length] at hj)
  | _ => exact hs

/-- Every effect keeps the key length legal. -/
theorem Effect.keeps_keyLengthOk {i : Instr} {s s' : State} (h : Effect i s s') (hs : keyLengthOk s.ks = true) :
    keyLengthOk s'.ks = true := by
  cases h with
  | init => exact keyLengthOk_initKeystream s.cfg
  | seek => rwa [keyLengthOk_congr (seekKeystream_key _ _)]
  | xor _ off len => exact (keyLengthOk_congr (xorBytes_ks_key _ _ _)).trans hs
  | hdrBuild => rwa [writeRamBytes_ks]
  | close => rfl
  | _ => exact hs

/-- Every effect keeps the reserved bits of HDR_RESULT 0. -/
theorem Effect.keeps_hdrResultOk {i : Instr} {s s' : State} (h : Effect i s s') (hs : hdrResultOk s.hdrResult = true) :
    hdrResultOk s'.hdrResult = true := by
  cases h with
  | xor _ off len => rwa [advancePos_hdrResult, xorBytes_hdrResult]
  | hdrBuild => rwa [writeRamBytes_hdrResult]
  | hdrCheck _ len => exact hdrResultOk_headerResult s len
  | _ => exact hs

/-- An OKAY transaction keeps the data invariant. -/
theorem accessReg_wf (q : BusReq) (r : Reg) (s : State) (h : s.wf = true) : (accessReg q r s).2.wf = true := by
  rcases accessReg_state q r s with h' | h' | h' | ⟨o, z, b, v, -, -, h'⟩ <;> rw [h']
  · exact h
  · exact h
  · exact h
  · obtain ⟨hmem, hkey, hres, hpend⟩ := (state_wf_iff s).1 h
    refine (state_wf_iff _).2 ⟨storeReg_mem_wf r v s hmem, ?_, ?_, storeReg_pendingOk r v s hpend⟩
    · rwa [storeReg_ks]
    · rwa [storeReg_hdrResult]

/-- Every part of a cycle keeps the data invariant. -/
theorem keptByCycleParts_wf : KeptByCycleParts (fun s => s.wf = true) where
  reset _ _ := (state_wf_iff _).2 ⟨rfl, rfl, by simp [resetCycle_eq, State.reset, hdrResultOk], rfl⟩
  takeInput _ h := h
  access q r s h := accessReg_wf q r s h
  wait s h hbusy hrem := by
    obtain ⟨hmem, hkey, hres, -⟩ := (state_wf_iff s).1 h
    refine (state_wf_iff _).2 ⟨hmem, hkey, hres, ?_⟩
    have hgo : 0 < s.remaining - 1 := by omega
    have hp : s.pend.isSome = true := hbusy
    simp [pendingOk, hp, hgo]
  effect i s s' heff h := by
    obtain ⟨hmem, hkey, hres, hpend⟩ := (state_wf_iff s).1 h
    exact (state_wf_iff _).2 ⟨heff.keeps_mem_wf hmem, heff.keeps_keyLengthOk hkey, heff.keeps_hdrResultOk hres,
      by rwa [pendingOk_congr heff.pend_eq heff.remaining_eq]⟩
  complete e s h := by
    obtain ⟨hmem, hkey, hres, -⟩ := (state_wf_iff s).1 h
    exact (state_wf_iff _).2 ⟨hmem, hkey, hres, rfl⟩

/-- Settles O49: the invariant is a conjunction over the memories, the key, HDR_RESULT and PEND, and each part of a
cycle keeps each of them. -/
theorem stepKeepsTheDataInvariant : Obligations.StepKeepsTheDataInvariant :=
  fun _ _ hs h => keptByCycleParts_wf.step hs h

end Sys2Proof.Proofs
end

section
/-! SUPPORT. Every step keeps the keystream invariant (O50): KSI through INIT, SEEK and the induction over
XOR's byte loop. -/

namespace Sys2Proof.Proofs

open Sys2Proof.Machine Sys2Proof.Claims

/-! ### KSI through INIT, SEEK and XOR's byte loop -/

/-- KSI at the start of the keystream, whatever KS_KEY and IVB_L are (R74). -/
theorem ksi_start (key : List Byte) (ivb : Vector Byte 8) : KSI { Keystream.reset with key := key, ivb := ivb } :=
  ⟨by simp [Keystream.reset], rfl, fun h => absurd rfl h, fun _ => by simp [Keystream.reset]⟩

/-- A keystream block depends on KS_KEY and IVB_L alone. -/
theorem keystreamBlock_congr {ks ks' : Keystream} (hk : ks'.key = ks.key) (hi : ks'.ivb = ks.ivb) (n : DWord) :
    keystreamBlock ks' n = keystreamBlock ks n := by
  rw [keystreamBlock, keystreamBlock, hk, hi]

/-- SEEK brings KSI about at every offset up to POS_MAX (R78). -/
theorem ksi_seekKeystream (ks : Keystream) (p : DWord) (hp : p.toNat < 2 ^ 63) : KSI (seekKeystream ks p) := by
  unfold seekKeystream
  dsimp only
  split
  · rename_i h
    refine ⟨by simp only [Config.posMax]; omega, ?_, fun _ => ⟨?_, rfl⟩, fun h0 => ?_⟩
    · simp
    · simp only [BitVec.toNat_ofNat]; omega
    · have := congrArg BitVec.toNat h0
      simp only [BitVec.toNat_ofNat] at this
      omega
  · rename_i h
    refine ⟨by simp only [Config.posMax]; omega, ?_, fun h0 => absurd rfl h0, fun _ => ?_⟩
    · simp only [BitVec.toNat_ofNat]; omega
    · simp only [BitVec.toNat_ofNat]; omega

/-- The keystream state after one more byte: XOR's pass, with POS moved along. -/
def nextByte (ks : Keystream) : Keystream := { refillBlock ks with num := ks.num + 1, pos := ks.pos + 1 }

/-- One more byte keeps KSI below POS_MAX: NUM and CTR follow POS into the block and out of it (R79, R43). -/
theorem ksi_nextByte (ks : Keystream) (h : KSI ks) (hp : ks.pos.toNat + 1 ≤ Config.posMax) : KSI (nextByte ks) := by
  obtain ⟨-, hnum, hinside, hstart⟩ := h
  have hmax : Config.posMax = 2 ^ 63 - 1 := rfl
  have hpos : (ks.pos + 1).toNat = ks.pos.toNat + 1 := by bv_omega
  have hnum' : (ks.num + 1).toNat = (ks.pos.toNat + 1) % 16 := by rw [BitVec.toNat_add, hnum]; simp
  by_cases h0 : ks.num = 0#4
  · have hctr := hstart h0
    have hlow : ks.pos.toNat % 16 = 0 := by rw [← hnum, h0]; rfl
    refine ⟨by simp only [nextByte]; omega, by simp only [nextByte]; omega, fun _ => ⟨?_, ?_⟩, fun hz => ?_⟩
    · simp only [nextByte, refillBlock, if_pos h0]
      have : (ks.ctr + 1).toNat = ks.ctr.toNat + 1 := by bv_omega
      omega
    · have hn : BitVec.ofNat 64 ((ks.pos + 1).toNat / 16) = ks.ctr := by
        apply BitVec.eq_of_toNat_eq
        rw [BitVec.toNat_ofNat]
        omega
      simp only [nextByte, refillBlock, if_pos h0, hn]
      exact keystreamBlock_congr rfl rfl _
    · have := congrArg BitVec.toNat hz
      simp only [nextByte, hnum', BitVec.toNat_ofNat] at this
      omega
  · obtain ⟨hctr, hec⟩ := hinside h0
    have hlow : ks.pos.toNat % 16 ≠ 0 := by
      rw [← hnum]
      exact fun e => h0 (BitVec.eq_of_toNat_eq e)
    refine ⟨by simp only [nextByte]; omega, by simp only [nextByte]; omega, fun hz => ?_, fun hz => ?_⟩
    · have hlast : (ks.pos.toNat + 1) % 16 ≠ 0 := by
        rw [← hnum']
        exact fun e => hz (BitVec.eq_of_toNat_eq e)
      have hblock : (ks.pos + 1).toNat / 16 = ks.pos.toNat / 16 := by omega
      simp only [nextByte, refillBlock, if_neg h0, hblock]
      exact ⟨hctr, hec.trans (keystreamBlock_congr rfl rfl _)⟩
    · have := congrArg BitVec.toNat hz
      simp only [nextByte, hnum', BitVec.toNat_ofNat] at this
      simp only [nextByte, refillBlock, if_neg h0]
      omega

/-- The keystream state as KSI sees it in the middle of XOR's loop, where POS has not moved yet: at offset `p`. -/
def atPos (ks : Keystream) (p : DWord) : Keystream := { ks with pos := p }

theorem refillBlock_atPos (ks : Keystream) (p : DWord) : refillBlock (atPos ks p) = atPos (refillBlock ks) p := by
  unfold refillBlock atPos
  dsimp only
  split <;> rfl

theorem nextByte_atPos (i : Nat) (s : State) (p : DWord) :
    nextByte (atPos s.ks p) = atPos (xorByte i s).ks (p + 1) := by
  rw [nextByte, refillBlock_atPos, xorByte_eq]
  rfl

/-- XOR's loop over `n` bytes takes KSI at offset `p` to KSI at offset `p + n` (R79). -/
theorem ksi_xorBytes (n i : Nat) (s : State) (p : DWord) (h : KSI (atPos s.ks p))
    (hp : p.toNat + n ≤ Config.posMax) : KSI (atPos (xorBytes n i s).ks (p + BitVec.ofNat 64 n)) := by
  induction n generalizing i s p with
  | zero => simpa [xorBytes] using h
  | succ n ih =>
    have hmax : Config.posMax = 2 ^ 63 - 1 := rfl
    have hnext : KSI (atPos (xorByte i s).ks (p + 1)) :=
      nextByte_atPos i s p ▸ ksi_nextByte _ h (by simp only [atPos]; omega)
    have hp1 : (p + 1).toNat = p.toNat + 1 := by bv_omega
    have hsum : p + BitVec.ofNat 64 (n + 1) = p + 1 + BitVec.ofNat 64 n := by
      rw [BitVec.add_assoc, BitVec.add_comm 1, BitVec.ofNat_add]; rfl
    rw [xorBytes, hsum]
    exact ih (i + 1) _ (p + 1) hnext (by omega)

/-- XOR keeps KSI (R79, R43). -/
theorem ksi_advancePos_xorBytes (off : BitVec 8) (len : BitVec 9) (s : State) (h : KSI s.ks)
    (hp : s.ks.pos.toNat + len.toNat ≤ 2 ^ 63 - 1) : KSI (advancePos len (xorBytes len.toNat off.toNat s)).ks := by
  have hlen : len.setWidth 64 = BitVec.ofNat 64 len.toNat := by
    apply BitVec.eq_of_toNat_eq; simp
  rw [advancePos_ks, xorBytes_ks_pos, hlen]
  exact ksi_xorBytes len.toNat off.toNat s s.ks.pos h hp

/-! ### The keystream invariant -/

theorem keystreamOk_congr {s t : State} (h : t.ks = s.ks) : t.keystreamOk ↔ s.keystreamOk := by
  simp only [State.keystreamOk, State.ksReady, h]

theorem keystreamOk_of_reset {s : State} (h : s.ks = Keystream.reset) : s.keystreamOk :=
  ⟨fun hr => by simp [State.ksReady, h, Keystream.reset] at hr, fun _ => h⟩

theorem keystreamOk_of_ksi {s : State} (hr : s.ksReady = true) (h : KSI s.ks) : s.keystreamOk :=
  ⟨fun _ => h, fun h' => by simp [hr] at h'⟩

/-- Every effect keeps the keystream invariant: INIT and SEEK bring KSI about, XOR keeps it, CLOSE resets. -/
theorem Effect.keeps_keystreamOk {i : Instr} {s s' : State} (h : Effect i s s') (hs : s.keystreamOk) : s'.keystreamOk := by
  cases h with
  | init =>
    have hready : (initKeystream s.cfg).key ≠ [] := by
      intro h
      have hlen := congrArg List.length h
      rcases keyBytes_cases s.cfg with hn | hn | hn <;> simp [initKeystream, hn] at hlen
    exact keystreamOk_of_ksi (by simpa [State.ksReady] using hready) (ksi_start _ _)
  | seek _ ready range =>
    exact keystreamOk_of_ksi (by simpa [State.ksReady] using ready) (ksi_seekKeystream _ _ range)
  | xor _ off len ready inBuf range =>
    exact keystreamOk_of_ksi (by simpa [State.ksReady] using ready)
      (ksi_advancePos_xorBytes off len s (hs.1 ready) range)
  | hdrBuild => exact (keystreamOk_congr (writeRamBytes_ks _ _ _)).2 hs
  | close => exact keystreamOk_of_reset rfl
  | _ => exact hs

/-- Every part of a cycle keeps the keystream invariant. -/
theorem keptByCycleParts_keystreamOk : KeptByCycleParts State.keystreamOk where
  reset _ _ := keystreamOk_of_reset rfl
  takeInput _ h := h
  access q r s h := (keystreamOk_congr (accessReg_ks q r s)).2 h
  wait _ h _ _ := h
  effect _ _ _ heff h := heff.keeps_keystreamOk h
  complete _ _ h := h

/-- Settles O50: no transaction reaches the keystream state, and `ksi_xorBytes` is the induction over XOR's loop. -/
theorem stepKeepsTheKeystreamInvariant : Obligations.StepKeepsTheKeystreamInvariant :=
  fun _ _ hs h => keptByCycleParts_keystreamOk.step hs h

end Sys2Proof.Proofs
end

section
/-! SUPPORT. Every step keeps a closed sponge zero (O51). -/

namespace Sys2Proof.Proofs

open Sys2Proof.Machine Sys2Proof.Claims

/-! ### The closed sponge -/

/-- Every effect leaves an open computation or a zero sponge (R85 to R88). -/
theorem Effect.keeps_digestOk {i : Instr} {s s' : State} (h : Effect i s s') (hs : s.digestOk) : s'.digestOk := by
  cases h with
  | xor _ off len => simpa [State.digestOk] using hs
  | dgInit => exact fun h => nomatch h
  | dgAbsorb _ off len active => exact fun h => by simp [active] at h
  | dgFinalPwd => exact fun _ => rfl
  | dgFinalSalt => exact fun _ => rfl
  | hdrBuild => simpa [State.digestOk] using hs
  | _ => exact hs

/-- Every part of a cycle keeps a closed sponge zero. -/
theorem keptByCycleParts_digestOk : KeptByCycleParts State.digestOk where
  reset _ _ _ := rfl
  takeInput _ h := h
  access q r s h := by simpa [State.digestOk] using h
  wait _ h _ _ := h
  effect _ _ _ heff h := heff.keeps_digestOk h
  complete _ _ h := h

/-- Settles O51: DG_ABSORB needs an open computation, and both finals zero the sponge they close. -/
theorem stepKeepsAClosedSpongeZero : Obligations.StepKeepsAClosedSpongeZero :=
  fun _ _ hs h => keptByCycleParts_digestOk.step hs h

end Sys2Proof.Proofs
end

section
/-! SUPPORT. Who writes the results (O53). -/

namespace Sys2Proof.Proofs

open Sys2Proof.Machine Sys2Proof.Claims

/-! ### Who changes what in a step -/

/-- The state that the host and the completions alone write: neither the passing of a cycle of LAT nor the record of a
completion touches it. -/
structure Written where
  cfg : ConfigRegs
  ks : Keystream
  dg : DigestUnit
  hdrResult : Word

/-- That part of a state. -/
def written (s : State) : Written := ⟨s.cfg, s.ks, s.dg, s.hdrResult⟩

@[simp] theorem written_cfg (s : State) : (written s).cfg = s.cfg := rfl
@[simp] theorem written_ks (s : State) : (written s).ks = s.ks := rfl
@[simp] theorem written_dg (s : State) : (written s).dg = s.dg := rfl
@[simp] theorem written_hdrResult (s : State) : (written s).hdrResult = s.hdrResult := rfl

/-- The bus phase changes what is written by a store of the host's word alone. -/
theorem busPhase_written {s s1 : State} (h : busPhase (cycleInput s).bus (takeInput s) = .next s1) :
    written s1 = written s ∨
    ∃ r v, HostWritesValue s r v ∧ written s1 = written (storeReg r v (takeInput s)) := by
  rcases busPhase_cases (cycleInput s).bus (takeInput s) with ⟨-, hb⟩ | ⟨q, r, hq, hr, hb⟩ | ⟨q, -, -, hb⟩ <;>
    rw [hb] at h <;> cases h
  · exact .inl rfl
  · rcases accessReg_state q r (takeInput s) with ha | ha | ha | ⟨o, z, b, v, rfl, -, ha⟩
    · exact .inl (congrArg written ha :)
    · exact .inl (congrArg written ha :)
    · exact .inl (congrArg written ha :)
    · exact .inr ⟨r, v, ⟨o, z, b, hq, hr⟩, (congrArg written ha :)⟩

/-- A step without reset that changes a view `f` of what is written does it by a store of the host's or by the effect
of the command that completes in it. -/
theorem step_written_change {α : Type} (f : Written → α) {s t : State} (h : step s = .next t) (hr : ¬ResetComing s)
    (hf : f (written t) ≠ f (written s)) :
    (∃ r v s0, HostWritesValue s r v ∧ f (written (storeReg r v s0)) ≠ f (written s0)) ∨
    (∃ i s1 s2, Completing s i ∧ Effect i s1 s2 ∧ f (written s2) ≠ f (written s1)) := by
  rcases step_cases h with ⟨hc, -⟩ | ⟨-, s1, hb, hcase⟩
  · exact absurd hc hr
  · by_cases h1 : f (written s1) = f (written s)
    · refine .inr ?_
      rcases hcase with ⟨-, rfl⟩ | ⟨w, -, -, rfl⟩ | ⟨w, hw, hrem, hx⟩
      · exact absurd h1 hf
      · exact absurd h1 hf
      · obtain ⟨e, s2, rfl, rfl | ⟨i, hd, heff⟩⟩ := executeWord_effect hx
        · exact absurd h1 hf
        · exact ⟨i, s1, s2, ⟨w, hw, hd, hrem⟩, heff, fun he => hf (he.trans h1)⟩
    · rcases busPhase_written hb with hw | ⟨r, v, hwr, hw⟩
      · exact absurd (congrArg f hw) h1
      · exact .inl ⟨r, v, takeInput s, hwr, fun he => h1 ((congrArg f hw).trans he)⟩

/-- What no store of the host's reaches changes by the effect of a completing command alone. -/
theorem step_change_completing {α : Type} (f : Written → α) (writer : Instr → Prop)
    (hstore : ∀ r v s, f (written (storeReg r v s)) = f (written s))
    (heffect : ∀ j s s', Effect j s s' → f (written s') ≠ f (written s) → writer j) {s t : State}
    (h : step s = .next t) (hr : ¬ResetComing s) (hf : f (written t) ≠ f (written s)) :
    ∃ j, writer j ∧ Completing s j := by
  rcases step_written_change f h hr hf with ⟨r, v, s0, -, hne⟩ | ⟨j, s1, s2, hc, heff, hne⟩
  · exact absurd (hstore r v s0) hne
  · exact ⟨j, heffect j s1 s2 heff hne, hc⟩

/-- What no effect reaches, and of the stores only those to register `r`, changes by the host's write of `r` alone. -/
theorem step_change_hostWrites {α : Type} (f : Written → α) (r : Reg)
    (hstore : ∀ r', r' ≠ r → ∀ v s, f (written (storeReg r' v s)) = f (written s))
    (heffect : ∀ j s s', Effect j s s' → f (written s') = f (written s)) {s t : State}
    (h : step s = .next t) (hr : ¬ResetComing s) (hf : f (written t) ≠ f (written s)) : HostWrites s r := by
  rcases step_written_change f h hr hf with ⟨r', v, s0, hw, hne⟩ | ⟨j, s1, s2, -, heff, hne⟩
  · by_cases e : r' = r
    · exact ⟨v, e ▸ hw⟩
    · exact absurd (hstore r' e v s0) hne
  · exact absurd (heffect j s1 s2 heff) hne

/-! ### Which effect reaches which register -/

/-- The configuration registers but for KEY, which CLOSE zeroes, are no command's to write (R21 to R25, R75). -/
theorem Effect.cfg_eq {i : Instr} {s s' : State} (h : Effect i s s') :
    s'.cfg = s.cfg ∨ i = .close ∧ s'.cfg = { s.cfg with key := Vector.replicate 8 0#32 } := by
  cases h with
  | close => exact .inr ⟨rfl, rfl⟩
  | _ => exact .inl (by simp)

theorem Effect.of_pos_ne {i : Instr} {s s' : State} (h : Effect i s s') (hne : s'.ks.pos ≠ s.ks.pos) :
    i = .init ∨ i = .seek ∨ i = .close ∨ ∃ off len, i = .xor off len := by
  cases h with
  | init => exact .inl rfl
  | seek => exact .inr (.inl rfl)
  | close => exact .inr (.inr (.inl rfl))
  | xor _ off len => exact .inr (.inr (.inr ⟨off, len, rfl⟩))
  | _ => exact absurd (by simp) hne

theorem Effect.of_keyIvb_ne {i : Instr} {s s' : State} (h : Effect i s s')
    (hne : (s'.ks.ivb, s'.ks.key) ≠ (s.ks.ivb, s.ks.key)) : i = .init ∨ i = .close := by
  cases h with
  | init => exact .inl rfl
  | close => exact .inr rfl
  | _ => exact absurd (by simp) hne

theorem Effect.of_hdrResult_ne {i : Instr} {s s' : State} (h : Effect i s s') (hne : s'.hdrResult ≠ s.hdrResult) :
    ∃ len, i = .hdrCheck len := by
  cases h with
  | hdrCheck _ len => exact ⟨len, rfl⟩
  | _ => exact absurd (by simp) hne

theorem Effect.of_pwd_ne {i : Instr} {s s' : State} (h : Effect i s s') (hne : s'.dg.pwd ≠ s.dg.pwd) :
    i = .dgFinalPwd := by
  cases h with
  | dgFinalPwd => rfl
  | _ => exact absurd (by simp [closeDigest]) hne

theorem Effect.of_salt_ne {i : Instr} {s s' : State} (h : Effect i s s') (hne : s'.dg.salt ≠ s.dg.salt) :
    i = .dgFinalSalt := by
  cases h with
  | dgFinalSalt => rfl
  | _ => exact absurd (by simp [closeDigest]) hne

/-- A configuration register other than KEY changes by the host's write of it alone. -/
theorem step_cfg_change {α : Type} (f : ConfigRegs → α) (r : Reg)
    (hkey : ∀ c, f { c with key := Vector.replicate 8 0#32 } = f c)
    (hstore : ∀ r', r' ≠ r → ∀ v s, f (storeReg r' v s).cfg = f s.cfg) {s t : State} (h : step s = .next t)
    (hr : ¬ResetComing s) (hf : f t.cfg ≠ f s.cfg) : HostWrites s r := by
  refine step_change_hostWrites (fun w => f w.cfg) r hstore (fun j s s' heff => ?_) h hr hf
  rcases heff.cfg_eq with hc | ⟨-, hc⟩
  · exact congrArg f hc
  · exact (congrArg f hc).trans (hkey _)

/-- A KEY word changes by CLOSE or by the host's write of it (R23, R75). -/
theorem step_key_change {s t : State} (h : step s = .next t) (hr : ¬ResetComing s) (k : Fin 8)
    (hf : nth t.cfg.key k.val 0 ≠ nth s.cfg.key k.val 0) : Completing s .close ∨ HostWrites s (.key k) := by
  rcases step_written_change (fun w => nth w.cfg.key k.val 0) h hr hf with
    ⟨r, v, s0, hw, hne⟩ | ⟨j, s1, s2, hc, heff, hne⟩
  · by_cases e : r = .key k
    · exact .inr ⟨v, e ▸ hw⟩
    · exact absurd (storeReg_key e v s0) hne
  · rcases heff.cfg_eq with he | ⟨rfl, -⟩
    · exact absurd (congrArg (fun c : ConfigRegs => nth c.key k.val 0) he) hne
    · exact .inl hc

/-- Settles O53: each part changes by a store to its register or by an effect that writes it, by `step_written_change`. -/
theorem onlyTheseWriteTheResults : Obligations.OnlyTheseWriteTheResults := by
  intro s t h hr
  refine ⟨fun hf => ?_, fun hf => ?_, fun hf => ?_, fun hf => ?_, fun hf => ?_,
    step_cfg_change (·.keylen) _ (fun _ => rfl) (fun _ => storeReg_keylen) h hr,
    step_cfg_change (·.rounds) _ (fun _ => rfl) (fun _ => storeReg_rounds) h hr,
    step_cfg_change (·.argLo) _ (fun _ => rfl) (fun _ => storeReg_argLo) h hr,
    step_cfg_change (·.argHi) _ (fun _ => rfl) (fun _ => storeReg_argHi) h hr,
    fun k => step_cfg_change (fun c => nth c.ivb k.val 0) _ (fun _ => rfl) (fun _ => storeReg_ivb) h hr,
    step_key_change h hr⟩
  · obtain ⟨i, rfl | rfl | rfl | ⟨off, len, rfl⟩, hc⟩ :=
      step_change_completing (·.ks.pos) _ (by simp) (fun _ _ _ => Effect.of_pos_ne) h hr hf
    · exact .inl hc
    · exact .inr (.inl hc)
    · exact .inr (.inr (.inl hc))
    · exact .inr (.inr (.inr ⟨off, len, hc⟩))
  · have hne : (t.ks.ivb, t.ks.key) ≠ (s.ks.ivb, s.ks.key) := fun e =>
      hf.elim (absurd (congrArg Prod.fst e)) (absurd (congrArg Prod.snd e))
    obtain ⟨i, rfl | rfl, hc⟩ :=
      step_change_completing (fun w => (w.ks.ivb, w.ks.key)) _ (by simp) (fun _ _ _ => Effect.of_keyIvb_ne) h hr hne
    · exact .inl hc
    · exact .inr hc
  · obtain ⟨i, ⟨len, rfl⟩, hc⟩ :=
      step_change_completing (·.hdrResult) _ (by simp) (fun _ _ _ => Effect.of_hdrResult_ne) h hr hf
    exact ⟨len, hc⟩
  · obtain ⟨i, rfl, hc⟩ := step_change_completing (·.dg.pwd) _ (by simp) (fun _ _ _ => Effect.of_pwd_ne) h hr hf
    exact hc
  · obtain ⟨i, rfl, hc⟩ := step_change_completing (·.dg.salt) _ (by simp) (fun _ _ _ => Effect.of_salt_ne) h hr hf
    exact hc

end Sys2Proof.Proofs
end

section
/-! SUPPORT. The register window: its map (O6), STATUS (O7), the packing of bytes (O8) and the host's
write on an idle machine (O10). -/

namespace Sys2Proof.Proofs

open Sys2Proof.Machine Sys2Proof.Claims

/-! ### The register map -/

theorem fileReg_eq_none_iff (n : Nat) (mk : Fin n → Reg) (i : Nat) : fileReg n mk i = none ↔ n ≤ i := by
  by_cases h : i < n
  · simp [fileReg, h]
  · simpa [fileReg, h] using Nat.le_of_not_lt h

/-- The word indices that hold no register (R18, R52). -/
theorem regOfIndex_eq_none_iff (w : Nat) :
    regOfIndex w = none ↔ (25 ≤ w ∧ w < 32) ∨ (48 ≤ w ∧ w < 64) ∨ (96 ≤ w ∧ w < 128) ∨ 192 ≤ w := by
  unfold regOfIndex
  split
  case h_16 =>
    simp only [imp_false] at *
    split_ifs <;> simp only [fileReg_eq_none_iff, true_iff] <;> omega
  all_goals simp

/-- Every register lies at its own word index. -/
theorem regOfIndex_regOffset (r : Reg) : regOfIndex (regOffset r / 4) = some r := by
  cases r with
  | key k => decide +revert
  | ivb k => decide +revert
  | pwdDigest k => decide +revert
  | saltDigest k => decide +revert
  | hdr k => decide +revert
  | buf k => decide +revert
  | _ => rfl

theorem regOffset_lt (r : Reg) : regOffset r < 1024 := by
  cases r <;> simp only [regOffset] <;> omega

theorem regOffset_aligned (r : Reg) : regOffset r % 4 = 0 := by
  cases r <;> simp only [regOffset] <;> omega

@[simp] theorem regAt_regOffset (r : Reg) : regAt (BitVec.ofNat 10 (regOffset r)) = some r := by
  have hn : (BitVec.ofNat 10 (regOffset r)).toNat = regOffset r := Nat.mod_eq_of_lt (regOffset_lt r)
  rw [regAt, hn, if_neg (by simp [regOffset_aligned]), regOfIndex_regOffset]

/-- The offsets that reach no register (R51, R52). -/
theorem regAt_eq_none_iff (off : BitVec 10) :
    regAt off = none ↔
      off.toNat % 4 ≠ 0 ∨ (0x064 ≤ off.toNat ∧ off.toNat ≤ 0x07F) ∨ (0x0C0 ≤ off.toNat ∧ off.toNat ≤ 0x0FF) ∨
      (0x180 ≤ off.toNat ∧ off.toNat ≤ 0x1FF) ∨ (0x300 ≤ off.toNat ∧ off.toNat ≤ 0x3FF) := by
  unfold regAt
  split
  · simp_all
  · rw [regOfIndex_eq_none_iff]
    omega

/-- Settles O6: the map from offsets back is `regAt_regOffset`, its gaps are `regAt_eq_none_iff`. -/
theorem registerMapOfTheWindow : Obligations.RegisterMapOfTheWindow :=
  ⟨fun r => ⟨regAt_regOffset r, regOffset_lt r, regOffset_aligned r⟩, regAt_eq_none_iff, by decide⟩

/-! ### STATUS -/

/-- No error code exceeds 7 (R102). -/
theorem errNumber_le (e : ErrCode) : errNumber e ≤ 0x07#8 := by
  cases e <;> decide

/-- A field of a word is given by its bits. -/
theorem extractLsb'_eq_of_getLsbD {v : Word} {start len : Nat} {x : BitVec len}
    (h : ∀ i < len, v.getLsbD (start + i) = x.getLsbD i) : v.extractLsb' start len = x := by
  apply BitVec.eq_of_getLsbD_eq
  intro i hi
  simpa [hi] using h i hi

theorem statusWord_errNumber (s : State) : (statusWord s).extractLsb' 8 8 = errNumber s.err := by
  refine extractLsb'_eq_of_getLsbD fun i hi => ?_
  simp only [statusWord, BitVec.getLsbD_append]
  interval_cases i <;> simp

theorem statusWord_flags (s : State) :
    (statusWord s).getLsbD 0 = s.busy ∧ (statusWord s).getLsbD 1 = s.ksReady ∧ (statusWord s).getLsbD 2 = s.dg.active ∧
    (statusWord s).getLsbD 3 = s.dg.pwdDv ∧ (statusWord s).getLsbD 4 = s.dg.saltDv ∧
    (statusWord s).getLsbD 5 = s.hdrOk := by
  simp only [statusWord, BitVec.getLsbD_append]
  simp [bit]

theorem statusWord_reserved (s : State) :
    (statusWord s).extractLsb' 6 2 = 0#2 ∧ (statusWord s).extractLsb' 16 16 = 0#16 := by
  constructor
  · refine extractLsb'_eq_of_getLsbD fun i hi => ?_
    simp only [statusWord, BitVec.getLsbD_append]
    interval_cases i <;> simp
  · refine extractLsb'_eq_of_getLsbD fun i hi => ?_
    simp only [statusWord, BitVec.getLsbD_append]
    interval_cases i <;> simp

theorem ksReady_eq_decide (s : State) : s.ksReady = decide (s.ks.key ≠ []) := by
  cases h : s.ks.key <;> simp [State.ksReady, h]

/-- Settles O7: the flags, the error field and the reserved bits of `statusWord`. -/
theorem statusWordFields : Obligations.StatusWordFields := by
  refine ⟨fun s => ?_, by decide⟩
  obtain ⟨hbusy, hready, hactive, hpwd, hsalt, hok⟩ := statusWord_flags s
  obtain ⟨hlow, hhigh⟩ := statusWord_reserved s
  have herr := statusWord_errNumber s
  exact ⟨hbusy, hready.trans (ksReady_eq_decide s), hactive, hpwd, hsalt, hok, hlow, herr, hhigh,
    herr ▸ errNumber_le s.err⟩

/-! ### Words and byte strings -/

/-- Byte `j` of a word packed of four bytes `f 0` to `f 3` is `f j` (R20). -/
theorem wordByte_packWord_apply (f : Nat → Byte) {j : Nat} (hj : j < 4) :
    wordByte (packWord (f 0) (f 1) (f 2) (f 3)) j = f j := by
  obtain ⟨h0, h1, h2, h3⟩ := wordByte_packWord (f 0) (f 1) (f 2) (f 3)
  interval_cases j <;> assumption

theorem wordByte_ramWord (s : State) (a : Nat) {j : Nat} (hj : j < 4) :
    wordByte (ramWord s a) j = readRam s (a + j) :=
  wordByte_packWord_apply (fun j => readRam s (a + j)) hj

theorem wordByte_digestWord (d : Vector Byte 32) (k : Nat) {j : Nat} (hj : j < 4) :
    wordByte (digestWord d k) j = nth d (4 * k + j) 0 :=
  wordByte_packWord_apply (fun j => nth d (4 * k + j) 0) hj

/-- The two words of a 64-bit register make it up, the high one at the higher offset (R48). -/
theorem extract_high_append_low (x : DWord) : (x.extractLsb' 32 32 : Word) ++ (x.extractLsb' 0 32 : Word) = x := by
  apply BitVec.eq_of_getLsbD_eq
  intro i hi
  simp only [BitVec.getLsbD_append, BitVec.getLsbD_extractLsb']
  by_cases h : i < 32
  · simp [h]
  · have h' : 32 + (i - 32) = i := by omega
    have hlt : i - 32 < 32 := by omega
    simp [h, h', hlt]

/-- Settles O8: each register word is packed of its four bytes, and POS and CTR are split in two. -/
theorem registerWordsPackBytes : Obligations.RegisterWordsPackBytes := by
  intro s
  refine ⟨fun k j hj => ?_, fun k j hj => ?_, fun k j hj => wordByte_digestWord _ _ hj,
    fun k j hj => wordByte_digestWord _ _ hj, fun k j hj => ?_, extract_high_append_low _, extract_high_append_low _, ?_⟩
  · rw [hdrByte, ← Nat.add_assoc]
    exact wordByte_ramWord s _ hj
  · rw [bufByte, ← Nat.add_assoc]
    exact wordByte_ramWord s _ hj
  · have hdiv : (4 * k.val + j) / 4 = k.val := by omega
    have hmod : (4 * k.val + j) % 4 = j := by omega
    rw [ivbRegByte, hdiv, hmod]
    rfl
  · simp only [regValue, BitVec.toNat_setWidth]
    omega

/-! ### A host write on an idle machine -/

@[simp] theorem reqReg_regWrite (r : Reg) (v : Word) : reqReg (regWrite r v) = some r := by
  simp [reqReg, regWrite, reqWhole, reqOffset]

/-- A register write always answers OKAY. -/
theorem transact_regWrite (r : Reg) (v : Word) (s : State) :
    transact (regWrite r v) s = ({ resp := .okay, data := none }, writeReg r v s) := by
  simp only [transact, reqReg_regWrite]
  rfl

/-- The registers that store what an idle host writes: all writable ones but CMD and IRQ_STATUS (R18). -/
def Stores (r : Reg) : Prop := (IdleWritable r ∧ r ≠ .cmd) ∨ r = .irqEn

theorem Stores.ne_cmd {r : Reg} (h : Stores r) : r ≠ .cmd := by
  rintro rfl
  simp [Stores] at h

theorem Stores.ne_irqStatus {r : Reg} (h : Stores r) : r ≠ .irqStatus := by
  rintro rfl
  simp [Stores, IdleWritable] at h

theorem Stores.not_ro {r : Reg} (h : Stores r) : regAccess r ≠ .ro := by
  rcases h with ⟨h | h | h | ⟨k, h⟩ | ⟨k, h⟩ | h | h | ⟨k, h⟩ | ⟨k, h⟩, -⟩ | h <;> subst h <;>
    simp [regAccess]

theorem writeReg_idle {r : Reg} (h : Stores r) (v : Word) {s : State} (hs : s.busy = false) :
    writeReg r v s = storeReg r v s := by
  rw [writeReg, if_neg h.not_ro, hs, Bool.false_and, if_neg Bool.false_ne_true]

/-- The low `n` bits of a word, read back with the others 0 (R19). -/
theorem setWidth_extractLsb'_low (v : Word) (n : Nat) :
    (v.extractLsb' 0 n).setWidth 32 = v &&& BitVec.ofNat 32 (2 ^ n - 1) := by
  apply BitVec.eq_of_getLsbD_eq
  intro i hi
  simp only [BitVec.getLsbD_setWidth, BitVec.getLsbD_extractLsb', BitVec.getLsbD_and, BitVec.getLsbD_ofNat,
    Nat.testBit_two_pow_sub_one, hi, Nat.zero_add, decide_true, Bool.true_and]
  exact Bool.and_comm _ _

/-- A register that stores reads back the word but for its reserved bits (R19); KEY reads 0 (R23). -/
theorem regValue_storeReg_same {r : Reg} (h : Stores r) (hkey : ∀ k, r ≠ .key k) (v : Word) (s : State) :
    regValue (storeReg r v s) r = readBack r v := by
  rcases h with ⟨h | h | h | ⟨k, h⟩ | ⟨k, h⟩ | h | h | ⟨k, h⟩ | ⟨k, h⟩, hc⟩ | h <;> subst h
  · exact absurd rfl hc
  · exact setWidth_extractLsb'_low v 2
  · rfl
  · exact absurd rfl (hkey k)
  · simp only [regValue, storeReg, nth_setIfInBounds, k.isLt, and_self, if_true]
    rfl
  · rfl
  · rfl
  · exact ramWord_storeRam_same _ v s
  · exact ramWord_storeRam_same _ v s
  · exact setWidth_extractLsb'_low v 3

/-- A store to one register changes what no other reads (R18, R124). -/
theorem regValue_storeReg_other {r r' : Reg} (h : Stores r) (hne : r' ≠ r) (v : Word) (s : State) :
    regValue (storeReg r v s) r' = regValue s r' := by
  cases r' with
  | ctrl => simp only [regValue, storeReg_keylen hne.symm]
  | rounds => simp only [regValue, storeReg_rounds hne.symm]
  | status => simp [regValue, statusWord, State.busy, State.ksReady, storeReg_pend h.ne_cmd]
  | irqEn => simp only [regValue, storeReg_irqEn hne.symm]
  | irqStatus => simp only [regValue, storeReg_irqStatus h.ne_irqStatus]
  | ivb k => exact storeReg_ivb hne.symm v s
  | argLo => exact storeReg_argLo hne.symm v s
  | argHi => exact storeReg_argHi hne.symm v s
  | hdr k => exact ramWord_storeReg_hdr hne.symm v s
  | buf k => exact ramWord_storeReg_buf hne.symm v s
  | _ => simp [regValue]

/-- Settles O10: the write is the store of the word, and the frame rules of `storeReg` say the rest. -/
theorem hostWriteReadsBack : Obligations.HostWriteReadsBack := by
  intro s r v hs (h : Stores r)
  simp only [transact_regWrite, writeReg_idle h v hs]
  refine ⟨trivial, fun hkey => regValue_storeReg_same h hkey v s, ?_, fun r' hne => regValue_storeReg_other h hne v s,
    fun k hk => storeReg_key hk v s, storeReg_ks r v s, storeReg_dg r v s, storeReg_pend h.ne_cmd v s⟩
  rintro k rfl
  exact ⟨rfl, by simp [storeReg, nth_setIfInBounds]⟩

end Sys2Proof.Proofs
end

section
/-! SUPPORT. What every command leaves alone and what its completion records (O27), and the counter block (O36). -/

namespace Sys2Proof.Proofs

open Sys2Proof.Machine Sys2Proof.Claims

/-! ### The frame of the commands -/

/-- No effect reaches PEND, the records of a completion, IRQ_EN or the model's own fields. -/
theorem Effect.frame {i : Instr} {s s' : State} (h : Effect i s s') :
    s' = { s with
      cfg := s'.cfg, hdrOk := s'.hdrOk, hdrResult := s'.hdrResult, ks := s'.ks, dg := s'.dg, mem := s'.mem } := by
  cases h with
  | xor _ off len => rw [(xorBytes_frame len.toNat off.toNat s).1]; rfl
  | hdrBuild => rw [writeRamBytes_eq]
  | _ => rfl

/-! ### What a completion records -/

/-- The bits a completion sets: DONE always, ERR for every code but OK, WERR never (R56). -/
theorem getLsbD_completionIrq (e : ErrCode) :
    (completionIrq e).getLsbD 0 = true ∧ (completionIrq e).getLsbD 1 = decide (e ≠ .ok) ∧
    (completionIrq e).getLsbD 2 = false := by
  cases e <;> decide

/-- The record of a completion at a state with the PEND and the pending interrupts of `s` (R56). -/
theorem recorded_complete (e : ErrCode) {s s' : State} (hp : s'.pend = s.pend) (hi : s'.irqStatus = s.irqStatus) :
    Recorded e s (complete e s') := by
  obtain ⟨hdone, herr, hwerr⟩ := getLsbD_completionIrq e
  refine ⟨rfl, fun w hw => ?_, rfl, ?_, ?_, ?_⟩
  · simp [hp, hw]
  · rw [complete_irqStatus, BitVec.getLsbD_or, hdone, Bool.or_true]
  · rw [complete_irqStatus, BitVec.getLsbD_or, herr, hi]
  · rw [complete_irqStatus, BitVec.getLsbD_or, hwerr, hi, Bool.or_false]

/-- Settles O27: a command is one of the effects and its completion, and no effect leaves `Effect.frame`. -/
theorem everyCommandCompletes : Obligations.EveryCommandCompletes := by
  intro i s
  obtain ⟨e, s', heff, hexec⟩ := exec_effect i s
  have hpend : s'.pend = s.pend := heff.pend_eq
  have hirq : s'.irqStatus = s.irqStatus := by rw [heff.frame]
  have hout : SameOutside s (complete e s') := by rw [heff.frame]; exact ⟨rfl, rfl, rfl, rfl, rfl⟩
  exact ⟨_, e, hexec, recorded_complete e hpend hirq, hout⟩

/-! ### The counter block -/

theorem nth_counterBlock_ivb (ivb : Vector Byte 8) (ctr : DWord) {j : Nat} (hj : j < 8) :
    nth (counterBlock ivb ctr) j 0 = nth ivb j 0 := by
  rw [counterBlock, nth_tab _ _ (by omega), if_pos hj]

theorem nth_counterBlock_ctr (ivb : Vector Byte 8) (ctr : DWord) {j : Nat} (hj : j < 8) :
    nth (counterBlock ivb ctr) (8 + j) 0 = ctr.extractLsb' (56 - 8 * j) 8 := by
  rw [counterBlock, nth_tab _ _ (by omega), if_neg (by omega), Nat.add_sub_cancel_left, be64Byte]

/-- Settles O36: the two halves of the block; byte 8 is the first of CTR's. -/
theorem counterBlockIsBigEndian : Obligations.CounterBlockIsBigEndian := fun ivb ctr =>
  ⟨fun _ => nth_counterBlock_ivb ivb ctr, fun _ => nth_counterBlock_ctr ivb ctr,
    nth_counterBlock_ctr ivb ctr (show 0 < 8 by decide)⟩

end Sys2Proof.Proofs
end

section
/-! SUPPORT. The transactions of the host: reads (O9), the CMD write (O17), and which ones the bus refuses. -/

namespace Sys2Proof.Proofs

open Sys2Proof.Machine Sys2Proof.Claims

/-! ### Reads -/

@[simp] theorem reqReg_regRead (r : Reg) : reqReg (regRead r) = some r := by
  simp [reqReg, regRead, reqWhole, reqOffset]

/-- A register read always answers OKAY, with what `readReg` finds. -/
theorem transact_regRead (r : Reg) (s : State) :
    transact (regRead r) s = ({ resp := .okay, data := some (readReg r s).1 }, (readReg r s).2) := by
  simp only [transact, reqReg_regRead]
  rfl

/-- The registers that R122 lets a busy machine read are those that no command writes. -/
theorem busyReadable_iff (r : Reg) : BusyReadable r ↔ regVolatile r = false := by
  cases r <;> simp [BusyReadable, regVolatile]

/-- A read whose value the spec gives returns it and moves nothing, not even the count of draws (R54, R122). -/
theorem readReg_eq_regValue {r : Reg} {s : State} (h : s.busy = false ∨ BusyReadable r) :
    readReg r s = (regValue s r, s) := by
  have hfixed : (s.busy && regVolatile r) = false := by
    rw [busyReadable_iff] at h
    rcases h with h | h <;> simp [h]
  rw [readReg, hfixed, if_neg Bool.false_ne_true]

/-- A busy read of a register that commands write draws a free value (R122). -/
theorem readReg_eq_free {r : Reg} {s : State} (hb : s.busy = true) (hr : ¬BusyReadable r) :
    readReg r s = (Config.freeWord s.draws, drawn s) := by
  rw [busyReadable_iff, Bool.not_eq_false] at hr
  rw [readReg, hb, hr, Bool.and_true, if_pos rfl]

/-- CMD and KEY read 0, busy or idle (R26, R23). -/
theorem readReg_cmd_key {r : Reg} (h : r = .cmd ∨ ∃ k, r = .key k) (s : State) : (readReg r s).1 = 0#32 := by
  have hread : BusyReadable r := by rcases h with rfl | ⟨k, rfl⟩ <;> simp [BusyReadable]
  rw [readReg_eq_regValue (.inr hread)]
  rcases h with rfl | ⟨k, rfl⟩ <;> rfl

/-- Settles O9: the three cases of `readReg`. -/
theorem readsHaveNoSideEffect : Obligations.ReadsHaveNoSideEffect := by
  intro s r
  simp only [transact_regRead]
  refine ⟨(readReg r s).1, rfl, ?_, fun h => ?_, fun hb hr => ?_, fun h => readReg_cmd_key h s⟩
  · rcases readReg_state r s with h | h
    · rw [h]
    · rw [h]; rfl
  · rw [readReg_eq_regValue h]; exact ⟨rfl, rfl⟩
  · rw [readReg_eq_free hb hr]

/-! ### The CMD write -/

/-- On an idle machine a CMD write is the issue of its word (R55). -/
theorem transact_cmd_idle (w : Word) {s : State} (h : s.busy = false) :
    transact (regWrite .cmd w) s = ({ resp := .okay, data := none }, issue w s) := by
  rw [transact_regWrite, writeReg, if_neg (by decide), h, Bool.false_and, if_neg Bool.false_ne_true]
  rfl

theorem untouched_issue (w : Word) (s : State) : Untouched s (issue w s) :=
  ⟨rfl, rfl, rfl, ⟨rfl, rfl⟩, readRam_congr rfl rfl⟩

/-- Settles O17: the write is `issue`, and STATUS is readable while BUSY = 1. -/
theorem cmdWriteIssuesAnyWord : Obligations.CmdWriteIssuesAnyWord := by
  intro s w h
  refine ⟨issue w s, transact_cmd_idle w h, rfl, rfl, ⟨statusWord (issue w s), ?_, ?_⟩, untouched_issue w s,
    rfl, rfl, rfl, rfl⟩
  · have hstatus : BusyReadable .status := by simp [BusyReadable]
    rw [transact_regRead, readReg_eq_regValue (.inr hstatus)]
    rfl
  · obtain ⟨hbusy, -⟩ := statusWord_flags (issue w s)
    exact hbusy

/-! ### Legal and illegal transactions -/

/-- A transaction reaches no register exactly when it is misaligned, narrow, partly strobed or unmapped (R51, R52). -/
theorem reqReg_eq_none_iff (q : BusReq) : reqReg q = none ↔ Illegal q := by
  unfold reqReg
  split
  case isTrue hw =>
    rw [regAt_eq_none_iff]
    cases q <;> simp_all [Illegal, reqWhole]
  case isFalse hw =>
    have hpart : Illegal q := by
      cases q with
      | read off z => exact .inr (.inl (by simpa [reqWhole] using hw))
      | write off z b v => exact .inr (.inl (by simpa [reqWhole, imp_iff_not_or] using hw))
    simp [hpart]

theorem exists_reqReg {q : BusReq} (h : ¬Illegal q) : ∃ r, reqReg q = some r := by
  rwa [← Option.ne_none_iff_exists', ne_eq, reqReg_eq_none_iff]

/-- A legal transaction answers OKAY (R45). -/
theorem transact_okay {q : BusReq} (h : ¬Illegal q) (s : State) : (transact q s).1.resp = .okay := by
  obtain ⟨r, hr⟩ := exists_reqReg h
  simp only [transact, hr]
  cases q <;> rfl

theorem busPhase_illegal {q : BusReq} (h : Illegal q) (s : State) :
    busPhase (some q) s = .fault (.slverr q (slverrResult q s)) := by
  have hr := (reqReg_eq_none_iff q).2 h
  cases q <;> simp [busPhase, transact, hr, slverrResult]

theorem busPhase_legal {q : BusReq} (h : ¬Illegal q) (s : State) :
    busPhase (some q) s = .next { (transact q s).2 with resp := some (transact q s).1 } := by
  simp [busPhase, transact_okay h]

end Sys2Proof.Proofs
end

section
/-! SUPPORT. One step, case by case: the transaction it makes (O14, O16), the command it completes (O15), and what the
cycles of LAT before the last leave alone (O20). -/

namespace Sys2Proof.Proofs

open Sys2Proof.Machine Sys2Proof.Claims

/-! ### A cycle without reset -/

theorem cycleInput_cons {s : State} {c : CycleIn} {rest : List CycleIn} (h : s.inbox = c :: rest) : cycleInput s = c := by
  rw [cycleInput, h]; rfl

theorem takeInput_cons {s : State} {c : CycleIn} {rest : List CycleIn} (h : s.inbox = c :: rest) :
    takeInput s = { s with inbox := rest, resp := none } := by
  rw [takeInput, h]; rfl

section

variable {s s1 : State} (hr : (cycleInput s).reset = false)

include hr

theorem step_eq_clockedCycle : step s = clockedCycle exec (cycleInput s).bus (takeInput s) := by
  rw [step, cycle, if_neg (by simp [hr])]

theorem step_of_busPhase_fault {f : Fault} (hb : busPhase (cycleInput s).bus (takeInput s) = .fault f) :
    step s = .fault f := by
  rw [step_eq_clockedCycle hr, clockedCycle, hb]

variable (hb : busPhase (cycleInput s).bus (takeInput s) = .next s1)

include hb

/-- An idle engine does nothing. -/
theorem step_idle (hp : s.pend = none) : step s = .next s1 := by
  have hbusy : (takeInput s).busy = false := (busy_eq_false_iff _).2 hp
  simp only [step_eq_clockedCycle hr, clockedCycle, hb, hbusy, Bool.false_eq_true, if_false]

/-- On a busy machine the engine finds PEND and the count of LAT as they were when the cycle began. -/
theorem step_busy {w : Word} (hp : s.pend = some w) :
    step s = if s.remaining ≤ 1 then executeWord exec w s1 else .next { s1 with remaining := s.remaining - 1 } := by
  have hbusy : (takeInput s).busy = true := (busy_eq_true_iff _).2 ⟨w, hp⟩
  have hs1 := busPhase_busy hbusy hb
  have hpend : s1.pend = some w := by rw [hs1]; exact hp
  have hrem : s1.remaining = s.remaining := by rw [hs1]; rfl
  simp only [step_eq_clockedCycle hr, clockedCycle, hb, hbusy, if_true, enginePhase, hpend, hrem]

/-- Before the last cycle of LAT one of its cycles passes (R56). -/
theorem step_wait {w : Word} (hp : s.pend = some w) (hrem : 1 < s.remaining) :
    step s = .next { s1 with remaining := s.remaining - 1 } := by
  rw [step_busy hr hb hp, if_neg (by omega)]

/-- In the last cycle of LAT the word in PEND is executed (R56). -/
theorem step_last {w : Word} (hp : s.pend = some w) (hrem : s.remaining ≤ 1) : step s = executeWord exec w s1 := by
  rw [step_busy hr hb hp, if_pos hrem]

end

/-! ### The host's transaction -/

/-- Settles O14: the bus phase faults, and with it the step. -/
theorem slverrIsAFaultOfTheHost : Obligations.SlverrIsAFaultOfTheHost := by
  intro s q rest hq hin
  have hc := cycleInput_cons hin
  refine ⟨slverrResult q (takeInput s), by cases q <;> rfl, step_of_busPhase_fault (by rw [hc]) ?_⟩
  rw [hc]
  exact busPhase_illegal hq _

/-- Settles O16: the bus phase is the transaction, and the engine adds nothing or a cycle of LAT. -/
theorem stepMakesTheTransaction : Obligations.StepMakesTheTransaction := by
  intro s q rest hq hin
  have hc := cycleInput_cons hin
  have hr : (cycleInput s).reset = false := by rw [hc]
  have hb : busPhase (cycleInput s).bus (takeInput s) =
      .next { (transact q (takeInput s)).2 with resp := some (transact q (takeInput s)).1 } := by
    rw [hc]; exact busPhase_legal hq _
  rw [← takeInput_cons hin]
  refine ⟨transact_okay hq _, step_idle hr hb, fun hp hrem => ?_⟩
  obtain ⟨w, hw⟩ := Option.ne_none_iff_exists'.1 hp
  exact step_wait hr hb hw hrem

/-! ### The completing command -/

theorem executeWord_of_decode {w : Word} {i : Instr} (hd : decode w = .ok i) (s : State) :
    executeWord exec w s = exec i s := by
  rw [executeWord, hd]

/-- With no input, the last cycle of LAT executes the word in PEND and does nothing else. -/
theorem step_last_idle {s : State} {w : Word} (hc : cycleInput s = CycleIn.idle) (hp : s.pend = some w)
    (hrem : s.remaining ≤ 1) : step s = executeWord exec w (takeInput s) :=
  step_last (by rw [hc]; rfl) (by rw [hc]; rfl) hp hrem

theorem cycleInput_withFetchWord (s : State) (nbits w : Nat) : cycleInput (s.withFetchWord nbits w) = CycleIn.idle := by
  unfold cycleInput State.withFetchWord
  cases s.inbox <;> rfl

theorem takeInput_withFetchWord (s : State) (nbits w : Nat) :
    takeInput (s.withFetchWord nbits w) =
      { s with pend := some (BitVec.ofNat 32 (w % 2 ^ nbits)), remaining := 1, resp := none } := by
  have htail : (idleFirst s.inbox).tail = s.inbox := by cases s.inbox <;> rfl
  simp only [takeInput, State.withFetchWord, lastCycleOf, htail]

/-- Settles O15: an idle last cycle executes the word in PEND, and a placed word is in PEND in such a cycle. -/
theorem stepRunsPendingCommand : Obligations.StepRunsPendingCommand := by
  refine ⟨fun s w i hp hd hrem hc => ?_, fun s w i hd => ?_⟩
  · rw [step_last_idle hc hp hrem, executeWord_of_decode hd]
    rfl
  · rw [step_last_idle (cycleInput_withFetchWord s 32 w) rfl (Nat.le_refl 1), executeWord_of_decode hd,
      takeInput_withFetchWord]

/-! ### The cycles of LAT before the last -/

/-- Settles O20: `busPhase_busy` is what the host can move, and the engine only counts the cycle. -/
theorem noIntermediateStateWhileBusy : Obligations.NoIntermediateStateWhileBusy := by
  intro s t hbusy hrem hr h
  obtain ⟨w, hp⟩ := (busy_eq_true_iff s).1 hbusy
  rcases step_cases h with ⟨hc, -⟩ | ⟨-, s1, hb, ⟨hnone, -⟩ | ⟨_, -, -, rfl⟩ | ⟨_, -, hlast, -⟩⟩
  · exact absurd hc hr
  · simp [hp] at hnone
  · rw [busPhase_busy (s := takeInput s) hbusy hb]
    rfl
  · omega

end Sys2Proof.Proofs
end

section
/-! SUPPORT. Runs through LAT: with a dutiful host (O19) and with a silent one (O21). -/

namespace Sys2Proof.Proofs

open Sys2Proof.Machine Sys2Proof.Claims

/-! ### Runs -/

theorem core_run_succ {s u : State} (h : step s = .next u) (n : Nat) :
    Sys2Proof.core.run (n + 1) s = Sys2Proof.core.run n u := by
  have hstep : Sys2Proof.core.step s = .next u := h
  simp only [Host.Core.run, hstep]

theorem core_run_one {s u : State} (h : step s = .next u) : Sys2Proof.core.run 1 s = .next u :=
  core_run_succ h 0

/-! ### With a dutiful host -/

/-- The host keeps its duty in every cycle to come, and reset stays away. -/
def Dutiful (s : State) : Prop := ∀ c ∈ s.inbox, c.reset = false ∧ dutifulInput c = true

theorem Dutiful.of_tail {s u : State} (h : Dutiful s) (hu : u.inbox = s.inbox.tail) : Dutiful u :=
  fun c hc => h c (List.mem_of_mem_tail (hu ▸ hc))

theorem Dutiful.next_input {s : State} (h : Dutiful s) :
    (cycleInput s).reset = false ∧ dutifulInput (cycleInput s) = true := by
  cases hin : s.inbox with
  | nil => rw [cycleInput, hin]; decide
  | cons c rest => rw [cycleInput_cons hin]; exact h c (by simp [hin])

/-- A dutiful host's transaction stops no cycle, and while BUSY = 1 it does not reach PEND. -/
theorem Dutiful.busPhase_next {s : State} {w : Word} (h : Dutiful s) (hp : s.pend = some w) :
    ∃ s1, busPhase (cycleInput s).bus (takeInput s) = .next s1 ∧ s1.pend = some w ∧ s1.inbox = s.inbox.tail := by
  obtain ⟨hr, hd⟩ := h.next_input
  have hgo : ∃ s1, busPhase (cycleInput s).bus (takeInput s) = .next s1 := by
    rcases busPhase_cases (cycleInput s).bus (takeInput s) with ⟨-, hb⟩ | ⟨q, r, -, -, hb⟩ | ⟨q, hq, hnone, -⟩
    · exact ⟨_, hb⟩
    · exact ⟨_, hb⟩
    · simp [dutifulInput, hr, hq, hnone] at hd
  obtain ⟨s1, hb⟩ := hgo
  have hs1 := busPhase_busy (s := takeInput s) ((busy_eq_true_iff s).2 ⟨w, hp⟩) hb
  exact ⟨s1, hb, by rw [hs1]; exact hp, by rw [hs1]; rfl⟩

/-- A cycle of LAT before the last keeps the word and counts down. -/
theorem Dutiful.step_wait {s : State} {w : Word} (h : Dutiful s) (hp : s.pend = some w) (hrem : 1 < s.remaining) :
    ∃ u, step s = .next u ∧ u.pend = some w ∧ u.remaining = s.remaining - 1 ∧ Dutiful u := by
  obtain ⟨hr, -⟩ := h.next_input
  obtain ⟨s1, hb, hp1, hin1⟩ := h.busPhase_next hp
  exact ⟨_, Proofs.step_wait hr hb hp hrem, hp1, rfl, h.of_tail hin1⟩

/-- Executing a word, legal or not, records a completion. -/
theorem executeWord_recorded (w : Word) (s : State) : ∃ e t, executeWord exec w s = .next t ∧ Recorded e s t := by
  unfold executeWord
  cases hd : decode w with
  | ok i =>
    obtain ⟨t, e, hx, hrec, -⟩ := everyCommandCompletes i s
    exact ⟨e, t, hx, hrec⟩
  | error _ => exact ⟨_, _, rfl, recorded_complete _ rfl rfl⟩

/-- The last cycle of LAT records the completion of the word. -/
theorem Dutiful.step_last {s : State} {w : Word} (h : Dutiful s) (hp : s.pend = some w) (hrem : s.remaining ≤ 1) :
    ∃ t, step s = .next t ∧ t.pend = none ∧ t.lastCmd = w ∧ t.irqStatus.getLsbD 0 = true := by
  obtain ⟨hr, -⟩ := h.next_input
  obtain ⟨s1, hb, hp1, -⟩ := h.busPhase_next hp
  obtain ⟨e, t, hx, -, hlast, hnone, hdone, -⟩ := executeWord_recorded w s1
  exact ⟨t, (Proofs.step_last hr hb hp hrem).trans hx, hnone, hlast w hp1, hdone⟩

/-- The run through the `k + 1` cycles of LAT still to go. -/
theorem Dutiful.run_completes {w : Word} (k : Nat) {s : State} (h : Dutiful s) (hp : s.pend = some w)
    (hk : max 1 s.remaining = k + 1) :
    ∃ t, Sys2Proof.core.run (k + 1) s = .next t ∧ t.pend = none ∧ t.lastCmd = w ∧ t.irqStatus.getLsbD 0 = true ∧
      (∀ n < k + 1, ∃ u, Sys2Proof.core.run n s = .next u ∧ u.pend = some w) := by
  induction k generalizing s with
  | zero =>
    obtain ⟨t, hstep, hnone, hlast, hdone⟩ := h.step_last hp (by omega)
    refine ⟨t, core_run_one hstep, hnone, hlast, hdone, fun n hn => ⟨s, ?_, hp⟩⟩
    obtain rfl : n = 0 := by omega
    rfl
  | succ k ih =>
    obtain ⟨u, hstep, hpu, hremu, hu⟩ := h.step_wait hp (by omega)
    obtain ⟨t, hrun, hnone, hlast, hdone, hkept⟩ := ih hu hpu (by omega)
    refine ⟨t, (core_run_succ hstep _).trans hrun, hnone, hlast, hdone, fun n hn => ?_⟩
    cases n with
    | zero => exact ⟨s, rfl, hp⟩
    | succ n =>
      obtain ⟨v, hv, hpv⟩ := hkept n (by omega)
      exact ⟨v, (core_run_succ hstep n).trans hv, hpv⟩

/-- Settles O19, by induction on the cycles of LAT still to go. -/
theorem issuedCommandCompletes : Obligations.IssuedCommandCompletes := by
  intro s w hp (h : Dutiful s)
  obtain ⟨k, hk⟩ : ∃ k, max 1 s.remaining = k + 1 := ⟨max 1 s.remaining - 1, by omega⟩
  rw [hk]
  exact h.run_completes k hp hk

/-! ### With a silent host -/

theorem cycleInput_nil {s : State} (h : s.inbox = []) : cycleInput s = CycleIn.idle := by
  rw [cycleInput, h]; rfl

/-- `s` with its inputs taken in the last cycle of LAT. -/
def atCompletion (s : State) : State := { s with remaining := 1, resp := none }

theorem takeInput_eq_atCompletion {s : State} (hin : s.inbox = []) (hrem : s.remaining = 1) :
    takeInput s = atCompletion s := by
  simp only [takeInput, atCompletion, hin, hrem, List.tail_nil]

/-- With nothing left in the inbox LAT passes, and the word is executed on the state as it was (R56, R57). -/
theorem core_run_silent {w : Word} (k : Nat) {s t : State} (hin : s.inbox = []) (hp : s.pend = some w)
    (hk : s.remaining = k + 1) (hx : executeWord exec w (atCompletion s) = .next t) :
    Sys2Proof.core.run (k + 1) s = .next t := by
  have hc := cycleInput_nil hin
  induction k generalizing s with
  | zero =>
    rw [← takeInput_eq_atCompletion hin hk] at hx
    exact core_run_one ((step_last_idle hc hp (by omega)).trans hx)
  | succ k ih =>
    have hstep : step s = .next { takeInput s with remaining := s.remaining - 1 } :=
      step_wait (by rw [hc]; rfl) (by rw [hc]; rfl) hp (by omega)
    have hin' : s.inbox.tail = [] := by rw [hin]; rfl
    have hsame : atCompletion { takeInput s with remaining := s.remaining - 1 } = atCompletion s := by
      simp only [atCompletion, takeInput, hin, List.tail_nil]
    rw [core_run_succ hstep]
    exact ih hin' hp (by dsimp only; omega) (hsame ▸ hx) (cycleInput_nil hin')

/-- What a cycle with a write of `w` to CMD makes of the idle machine `s`: the command issued, and OKAY for the host. -/
def justIssued (w : Word) (s : State) : State :=
  { issue w (takeInput s) with resp := some { resp := .okay, data := none } }

theorem step_cmd_write {s : State} {w : Word} {rest : List CycleIn} (hp : s.pend = none)
    (hin : s.inbox = { reset := false, bus := some (regWrite .cmd w) } :: rest) :
    step s = .next (justIssued w s) := by
  have hc := cycleInput_cons hin
  have hlegal : ¬Illegal (regWrite .cmd w) := by
    rw [← reqReg_eq_none_iff, reqReg_regWrite]
    exact Option.some_ne_none _
  have hidle : (takeInput s).busy = false := (busy_eq_false_iff _).2 hp
  refine step_idle (by rw [hc]) ?_ hp
  rw [hc, busPhase_legal hlegal, transact_cmd_idle w hidle, justIssued]

/-- Settles O21: the step that issues the word, and `core_run_silent` through its LAT. -/
theorem commandRunsOnOperandsAsIssued : Obligations.CommandRunsOnOperandsAsIssued := by
  intro s w i hp hd hin
  have hin' : (justIssued w s).inbox = [] := by simp [justIssued, hin]
  obtain ⟨t, -, hx, -⟩ := everyCommandCompletes i (atCompletion (justIssued w s))
  have hrun : Sys2Proof.core.run (Config.latency s.draws + 1) (justIssued w s) = .next t :=
    core_run_silent _ hin' rfl rfl ((executeWord_of_decode hd _).trans hx)
  exact ⟨Config.latency s.draws + 1, _, t, Nat.le_add_left 1 _, (core_run_succ (step_cmd_write hp hin) _).trans hrun, hx,
    rfl, ⟨rfl, rfl, rfl, ⟨rfl, rfl⟩, readRam_congr rfl rfl⟩, rfl, rfl, rfl, rfl, rfl⟩

end Sys2Proof.Proofs
end

section
/-! SUPPORT. The command words: decode and encode (O1, O4, O5) and the illegal words (O3). -/

namespace Sys2Proof.Proofs

open Sys2Proof.Machine Sys2Proof.Claims Sys2Proof.Laws.EncodeFields

/-! ### The fields of a word -/

/-- A command's word is made of its opcode, LEN and OFF (R63, R66). -/
theorem encode_eq_commandWord (i : Instr) : encode i = commandWord (opcodeOf i) (lenOf i) (offOf i) := by
  cases i <;> rfl

/-- Two words are equal if each of their four fields is (R63). -/
theorem word_ext_fields {v w : Word} (hres : fieldRes v = fieldRes w) (hoff : fieldOff v = fieldOff w)
    (hlen : fieldLen v = fieldLen w) (hopc : fieldOpc v = fieldOpc w) : v = w := by
  apply BitVec.eq_of_getLsbD_eq
  intro k hk
  obtain h | h | h | h : k < 8 ∨ (8 ≤ k ∧ k - 8 < 9) ∨ (17 ≤ k ∧ k - 17 < 8) ∨ (25 ≤ k ∧ k - 25 < 7) := by omega
  · simpa [fieldOpc, h] using congrArg (·.getLsbD k) hopc
  · simpa [fieldLen, h] using congrArg (·.getLsbD (k - 8)) hlen
  · simpa [fieldOff, h] using congrArg (·.getLsbD (k - 17)) hoff
  · simpa [fieldRes, h] using congrArg (·.getLsbD (k - 25)) hres

/-- A word whose RES is 0 is made of its other fields (R63). -/
theorem commandWord_of_fields {w : Word} (h : fieldRes w = 0#7) :
    commandWord (fieldOpc w) (fieldLen w) (fieldOff w) = w := by
  obtain ⟨hres, hopc, hlen, hoff⟩ := commandWord_fields (fieldOpc w) (fieldLen w) (fieldOff w)
  exact word_ext_fields (hres.trans h.symm) hoff hlen hopc

/-- A word with RES = 0 as a number: `(OFF << 17) | (LEN << 8) | OPC` (R63). -/
theorem commandWord_toNat (opc : BitVec 8) (len : BitVec 9) (off : BitVec 8) :
    (commandWord opc len off).toNat = off.toNat * 2 ^ 17 + len.toNat * 2 ^ 8 + opc.toNat := by
  simp only [commandWord, BitVec.toNat_append]
  rw [← Nat.shiftLeft_add_eq_or_of_lt opc.isLt, ← Nat.shiftLeft_add_eq_or_of_lt len.isLt,
    ← Nat.shiftLeft_add_eq_or_of_lt off.isLt]
  simp only [BitVec.toNat_ofNat, Nat.zero_mod, Nat.shiftLeft_eq]
  omega

/-! ### The decoder's checks -/

theorem bufLenOk_iff {len : BitVec 9} : bufLenOk len = true ↔ len.toNat ≤ 256 := decide_eq_true_iff

theorem hdrLenOk_iff {len : BitVec 9} : hdrLenOk len = true ↔ len.toNat ≤ 128 := decide_eq_true_iff

theorem decodeBare_eq_ok_iff {i j : Instr} {len : BitVec 9} {off : BitVec 8} :
    decodeBare i len off = .ok j ↔ i = j ∧ len = 0 ∧ off = 0 := by
  unfold decodeBare
  split
  case isTrue h => simp only [reduceCtorEq, false_iff]; tauto
  case isFalse h => simp only [Except.ok.injEq]; tauto

theorem decodeRange_eq_ok_iff {i j : Instr} {len : BitVec 9} :
    decodeRange i len = .ok j ↔ i = j ∧ bufLenOk len = true := by
  unfold decodeRange
  split <;> simp_all

theorem decodeHdrCheck_eq_ok_iff {j : Instr} {len : BitVec 9} {off : BitVec 8} :
    decodeHdrCheck len off = .ok j ↔ .hdrCheck len = j ∧ off = 0 ∧ hdrLenOk len = true := by
  unfold decodeHdrCheck
  split
  · simp_all
  · split <;> simp_all

/-- What the opcode map decodes: the well-formed commands, each from its own fields (R66, R67). -/
theorem decodeOpcode_eq_ok_iff {opc : Nat} {len : BitVec 9} {off : BitVec 8} {i : Instr} :
    decodeOpcode opc len off = .ok i ↔
      i.wellFormed = true ∧ opc = (opcodeOf i).toNat ∧ len = lenOf i ∧ off = offOf i := by
  constructor
  · intro h
    unfold decodeOpcode at h
    split at h
    case h_4 => obtain ⟨rfl, hlen⟩ := decodeRange_eq_ok_iff.1 h; exact ⟨hlen, rfl, rfl, rfl⟩
    case h_6 => obtain ⟨rfl, hlen⟩ := decodeRange_eq_ok_iff.1 h; exact ⟨hlen, rfl, rfl, rfl⟩
    case h_10 => obtain ⟨rfl, rfl, hlen⟩ := decodeHdrCheck_eq_ok_iff.1 h; exact ⟨hlen, rfl, rfl, rfl⟩
    case h_12 => cases h
    all_goals obtain ⟨rfl, rfl, rfl⟩ := decodeBare_eq_ok_iff.1 h; exact ⟨rfl, rfl, rfl, rfl⟩
  · rintro ⟨hwf, rfl, rfl, rfl⟩
    cases i with
    | xor off len => exact decodeRange_eq_ok_iff.2 ⟨rfl, hwf⟩
    | dgAbsorb off len => exact decodeRange_eq_ok_iff.2 ⟨rfl, hwf⟩
    | hdrCheck len => exact decodeHdrCheck_eq_ok_iff.2 ⟨rfl, rfl, hwf⟩
    | _ => exact decodeBare_eq_ok_iff.2 ⟨rfl, rfl, rfl⟩

/-! ### decode and encode -/

/-- A word decodes to a command exactly when the command is well formed and the word is its word. -/
theorem decode_eq_ok_iff {w : Word} {i : Instr} : decode w = .ok i ↔ i.wellFormed = true ∧ encode i = w := by
  constructor
  · intro h
    unfold decode at h
    split at h
    case isTrue => cases h
    case isFalse hres =>
      obtain ⟨hwf, hopc, hlen, hoff⟩ := decodeOpcode_eq_ok_iff.1 h
      refine ⟨hwf, ?_⟩
      rw [encode_eq_commandWord, ← BitVec.eq_of_toNat_eq hopc, ← hlen, ← hoff]
      exact commandWord_of_fields (not_ne_iff.1 hres)
  · rintro ⟨hwf, rfl⟩
    obtain ⟨hres, hopc, hlen, hoff⟩ := commandWord_fields (opcodeOf i) (lenOf i) (offOf i)
    have hres' : ¬fieldRes (encode i) ≠ 0 := not_ne_iff.2 (encode_eq_commandWord i ▸ hres)
    rw [decode, if_neg hres', encode_eq_commandWord, hopc, hlen, hoff]
    exact decodeOpcode_eq_ok_iff.2 ⟨hwf, rfl, rfl, rfl⟩

theorem decode_encode {i : Instr} (h : i.wellFormed = true) : decode (encode i) = .ok i :=
  decode_eq_ok_iff.2 ⟨h, rfl⟩

/-- On a word written as a number the table's decoder is `decode`. -/
theorem decodeTableWord_toNat {w : Word} {i : Instr} (h : decode w = .ok i) : decodeTableWord 32 w.toNat = some i := by
  have hw : BitVec.ofNat 32 (w.toNat % 2 ^ 32) = w := by
    rw [Nat.mod_eq_of_lt w.isLt, BitVec.ofNat_toNat, BitVec.setWidth_eq]
  rw [decodeTableWord, hw, h]

/-- Settles O1: `decode_eq_ok_iff`, read in both directions. -/
theorem decodeEncodeInverse : Obligations.DecodeEncodeInverse :=
  ⟨fun _ hwf => ⟨decode_encode hwf, decodeTableWord_toNat (decode_encode hwf)⟩, fun _ _ => decode_eq_ok_iff.1⟩

/-- Settles O4: each word is made of its fields, as `commandWord_toNat` says. -/
theorem commandWordsAsNumbers : Obligations.CommandWordsAsNumbers := by
  refine ⟨fun off len => ⟨commandWord_toNat _ len off, commandWord_toNat _ len off, ?_⟩, by decide⟩
  exact (commandWord_toNat 0x09#8 len 0).trans (by simp)

/-- Settles O5: six words that `encode` gives, and two whose checks fail. -/
theorem exampleWordsDecode : Obligations.ExampleWordsDecode :=
  ⟨decode_encode (i := .xor 0 20) rfl, decode_encode (i := .xor 4 256) rfl, decode_encode (i := .dgAbsorb 0 5) rfl,
    decode_encode (i := .hdrCheck 128) rfl, decode_encode (i := .hdrCheck 100) rfl, decode_encode (i := .close) rfl,
    rfl, rfl⟩

/-! ### The illegal words -/

theorem exists_error_iff {x : Except DecodeError Instr} : (∃ e, x = .error e) ↔ ¬∃ i, x = .ok i := by
  cases x <;> simp

theorem decodeBare_error_iff {i : Instr} {len : BitVec 9} {off : BitVec 8} :
    (∃ e, decodeBare i len off = .error e) ↔ len ≠ 0 ∨ off ≠ 0 := by
  simp only [exists_error_iff, decodeBare_eq_ok_iff, exists_eq_left', not_and_or, ne_eq]

theorem decodeRange_error_iff {i : Instr} {len : BitVec 9} :
    (∃ e, decodeRange i len = .error e) ↔ 257 ≤ len.toNat := by
  simp only [exists_error_iff, decodeRange_eq_ok_iff, exists_eq_left', bufLenOk_iff]
  omega

theorem decodeHdrCheck_error_iff {len : BitVec 9} {off : BitVec 8} :
    (∃ e, decodeHdrCheck len off = .error e) ↔ off ≠ 0 ∨ 129 ≤ len.toNat := by
  simp only [exists_error_iff, decodeHdrCheck_eq_ok_iff, exists_eq_left', not_and_or, hdrLenOk_iff, Nat.not_le, ne_eq]
  rfl

/-- What the opcode map refuses, by the opcode (R68). -/
theorem decodeOpcode_error_iff (opc : Nat) (len : BitVec 9) (off : BitVec 8) :
    (∃ e, decodeOpcode opc len off = .error e) ↔
      0x0B ≤ opc ∨ ((opc = 0x03 ∨ opc = 0x05) ∧ 257 ≤ len.toNat) ∨ (opc = 0x09 ∧ (off ≠ 0 ∨ 129 ≤ len.toNat)) ∨
      (opc ≠ 0x03 ∧ opc ≠ 0x05 ∧ opc ≠ 0x09 ∧ (len ≠ 0 ∨ off ≠ 0)) := by
  unfold decodeOpcode
  split
  case h_4 => simp [decodeRange_error_iff]
  case h_6 => simp [decodeRange_error_iff]
  case h_10 => simp [decodeHdrCheck_error_iff]
  case h_12 =>
    have hopc : 0x0B ≤ opc := by simp only [imp_false] at *; omega
    simp [hopc]
  all_goals simp [decodeBare_error_iff]

/-- Settles O3: RES, and then the opcode map's own cases. -/
theorem illegalWordsAreThoseListed : Obligations.IllegalWordsAreThoseListed := by
  intro w
  have hopcode := decodeOpcode_error_iff (fieldOpc w).toNat (fieldLen w) (fieldOff w)
  have heq (n : Nat) (hn : n < 2 ^ 8) : (fieldOpc w).toNat = n ↔ fieldOpc w = BitVec.ofNat 8 n := by
    rw [BitVec.toNat_eq, BitVec.toNat_ofNat, Nat.mod_eq_of_lt hn]
  simp only [ne_eq, heq 3 (by decide), heq 5 (by decide), heq 9 (by decide)] at hopcode
  by_cases hres : fieldRes w = 0
  · rw [decode, if_neg (not_ne_iff.2 hres), hopcode]
    have hres' : w.extractLsb' 25 7 = 0#7 := hres
    simp only [hres', ne_eq, not_true_eq_false, false_or]
    rfl
  · rw [decode, if_pos hres]
    exact iff_of_true ⟨_, rfl⟩ (.inr (.inl hres))

end Sys2Proof.Proofs
end

section
/-! SUPPORT. The number of legal words (O2). -/

namespace Sys2Proof.Proofs

open Sys2Proof.Machine Sys2Proof.Claims Sys2Proof.Laws.EncodeFields

/-! ### The words of a family of commands -/

/-- A family of well-formed commands without repetition has as many words as it has members. -/
theorem card_words {α : Type} {P : Word → Prop} (f : α → Instr) (hinj : Function.Injective f)
    (hwf : ∀ a, (f a).wellFormed = true) (hP : ∀ w, P w ↔ ∃ a, decode w = .ok (f a)) :
    Nat.card {w : Word // P w} = Nat.card α := by
  have hword : Function.Injective fun a => encode (f a) := by
    intro a b hab
    have hdec : decode (encode (f a)) = decode (encode (f b)) := congrArg decode hab
    rw [decode_encode (hwf a), decode_encode (hwf b)] at hdec
    exact hinj (Except.ok.inj hdec)
  have hrange (w : Word) : P w ↔ w ∈ Set.range fun a => encode (f a) := by
    simp only [hP, decode_eq_ok_iff, hwf, true_and, Set.mem_range]
  exact (Nat.card_congr (Equiv.subtypeEquivRight hrange)).trans (Nat.card_range_of_injective hword)

/-- The LEN values below a bound. -/
def lenBelow {n : Nat} (k : Fin n) : BitVec 9 := BitVec.ofNat 9 k.val

theorem lenBelow_toNat {n : Nat} (hn : n ≤ 512) (k : Fin n) : (lenBelow k).toNat = k.val :=
  Nat.mod_eq_of_lt (by omega)

theorem lenBelow_injective {n : Nat} (hn : n ≤ 512) : Function.Injective (lenBelow (n := n)) := by
  intro j k hjk
  rw [Fin.ext_iff, ← lenBelow_toNat hn j, ← lenBelow_toNat hn k, hjk]

theorem exists_lenBelow {n : Nat} {len : BitVec 9} (h : len.toNat < n) : ∃ k : Fin n, lenBelow k = len :=
  ⟨⟨len.toNat, h⟩, by simp [lenBelow]⟩

/-! ### The commands that have a word, by their kind -/

/-- The eight commands without operands, in the order of their opcodes. -/
def bareCommand : Fin 8 → Instr :=
  [.nop, .init, .seek, .dgInit, .dgFinalPwd, .dgFinalSalt, .hdrBuild, .close].get

/-- The commands of an opcode with OFF and a LEN of at most 256. -/
def rangeCommand (mk : BitVec 8 → BitVec 9 → Instr) (a : Fin 257 × Fin 256) : Instr := mk (.ofFin a.2) (lenBelow a.1)

/-- HDR_CHECK with a LEN of at most 128. -/
def checkCommand (k : Fin 129) : Instr := .hdrCheck (lenBelow k)

theorem rangeCommand_injective {mk : BitVec 8 → BitVec 9 → Instr}
    (hmk : ∀ off len off' len', mk off len = mk off' len' → off = off' ∧ len = len') :
    Function.Injective (rangeCommand mk) := by
  rintro ⟨k, o⟩ ⟨k', o'⟩ h
  obtain ⟨hoff, hlen⟩ := hmk _ _ _ _ h
  exact Prod.ext (lenBelow_injective (by decide) hlen) (BitVec.ofFin.inj hoff)

theorem exists_rangeCommand (mk : BitVec 8 → BitVec 9 → Instr) {len : BitVec 9} (off : BitVec 8)
    (h : bufLenOk len = true) : ∃ a, rangeCommand mk a = mk off len := by
  have hlen := bufLenOk_iff.1 h
  obtain ⟨k, rfl⟩ := exists_lenBelow (n := 257) (len := len) (by omega)
  exact ⟨(k, off.toFin), rfl⟩

theorem bufLenOk_lenBelow (k : Fin 257) : bufLenOk (lenBelow k) = true := by
  rw [bufLenOk_iff, lenBelow_toNat (by decide)]
  omega

theorem hdrLenOk_lenBelow (k : Fin 129) : hdrLenOk (lenBelow k) = true := by
  rw [hdrLenOk_iff, lenBelow_toNat (by decide)]
  omega

theorem bareCommand_injective : Function.Injective bareCommand := by decide

theorem checkCommand_injective : Function.Injective checkCommand :=
  fun _ _ h => lenBelow_injective (by decide) (Instr.hdrCheck.inj h)

theorem exists_checkCommand {len : BitVec 9} (h : hdrLenOk len = true) : ∃ k, checkCommand k = .hdrCheck len := by
  have hlen := hdrLenOk_iff.1 h
  obtain ⟨k, rfl⟩ := exists_lenBelow (n := 129) (len := len) (by omega)
  exact ⟨k, rfl⟩

/-! ### Counting -/

/-- XOR's and DG_ABSORB's words: one for each OFF and each LEN of at most 256 (R69). -/
theorem card_rangeCommand_words {mk : BitVec 8 → BitVec 9 → Instr}
    (hmk : ∀ off len off' len', mk off len = mk off' len' → off = off' ∧ len = len')
    (hwf : ∀ off len, (mk off len).wellFormed = bufLenOk len) :
    Nat.card {w : Word // ∃ off len, decode w = .ok (mk off len)} = 257 * 256 := by
  rw [card_words (rangeCommand mk) (rangeCommand_injective hmk) (fun a => (hwf _ _).trans (bufLenOk_lenBelow a.1)),
    Nat.card_prod, Nat.card_fin, Nat.card_fin]
  refine fun w => ⟨?_, fun ⟨_, h⟩ => ⟨_, _, h⟩⟩
  rintro ⟨off, len, h⟩
  obtain ⟨a, ha⟩ := exists_rangeCommand mk off ((hwf off len).symm.trans (decode_eq_ok_iff.1 h).1)
  exact ⟨a, ha ▸ h⟩

theorem card_checkCommand_words : Nat.card {w : Word // ∃ len, decode w = .ok (.hdrCheck len)} = 129 := by
  rw [card_words checkCommand checkCommand_injective hdrLenOk_lenBelow, Nat.card_fin]
  refine fun w => ⟨?_, fun ⟨_, h⟩ => ⟨_, h⟩⟩
  rintro ⟨len, h⟩
  obtain ⟨k, hk⟩ := exists_checkCommand (decode_eq_ok_iff.1 h).1
  exact ⟨k, hk ▸ h⟩

/-- Every well-formed command, by its kind. -/
def legalCommand : Fin 8 ⊕ (Fin 257 × Fin 256) ⊕ (Fin 257 × Fin 256) ⊕ Fin 129 → Instr :=
  Sum.elim bareCommand (Sum.elim (rangeCommand .xor) (Sum.elim (rangeCommand .dgAbsorb) checkCommand))

theorem legalCommand_injective : Function.Injective legalCommand := by
  have hbare (k : Fin 8) : opcodeOf (bareCommand k) ≠ 0x03#8 ∧ opcodeOf (bareCommand k) ≠ 0x05#8 ∧
      opcodeOf (bareCommand k) ≠ 0x09#8 := by
    decide +revert
  refine bareCommand_injective.sumElim ((rangeCommand_injective (by simp)).sumElim
    ((rangeCommand_injective (by simp)).sumElim checkCommand_injective ?_) ?_) ?_
  · rintro a k h
    cases h
  · rintro a (b | k) h <;> cases h
  · intro k b h
    obtain ⟨hxor, habsorb, hcheck⟩ := hbare k
    rcases b with a | a | j
    · exact hxor (congrArg opcodeOf h)
    · exact habsorb (congrArg opcodeOf h)
    · exact hcheck (congrArg opcodeOf h)

theorem legalCommand_wellFormed (a) : (legalCommand a).wellFormed = true := by
  rcases a with k | a | a | k
  · decide +revert
  · exact bufLenOk_lenBelow a.1
  · exact bufLenOk_lenBelow a.1
  · exact hdrLenOk_lenBelow k

theorem exists_legalCommand {i : Instr} (h : i.wellFormed = true) : ∃ a, legalCommand a = i := by
  cases i with
  | xor off len => obtain ⟨a, ha⟩ := exists_rangeCommand .xor off h; exact ⟨.inr (.inl a), ha⟩
  | dgAbsorb off len => obtain ⟨a, ha⟩ := exists_rangeCommand .dgAbsorb off h; exact ⟨.inr (.inr (.inl a)), ha⟩
  | hdrCheck len => obtain ⟨k, hk⟩ := exists_checkCommand h; exact ⟨.inr (.inr (.inr k)), hk⟩
  | nop => exact ⟨.inl 0, rfl⟩
  | init => exact ⟨.inl 1, rfl⟩
  | seek => exact ⟨.inl 2, rfl⟩
  | dgInit => exact ⟨.inl 3, rfl⟩
  | dgFinalPwd => exact ⟨.inl 4, rfl⟩
  | dgFinalSalt => exact ⟨.inl 5, rfl⟩
  | hdrBuild => exact ⟨.inl 6, rfl⟩
  | close => exact ⟨.inl 7, rfl⟩

theorem card_legal_words :
    Nat.card {w : Word // ∃ i, decode w = .ok i} = 8 + 257 * 256 + 257 * 256 + 129 := by
  rw [card_words legalCommand legalCommand_injective legalCommand_wellFormed]
  · simp only [Nat.card_sum, Nat.card_prod, Nat.card_fin]
  · refine fun w => ⟨?_, fun ⟨_, h⟩ => ⟨_, h⟩⟩
    rintro ⟨i, h⟩
    obtain ⟨a, ha⟩ := exists_legalCommand (decode_eq_ok_iff.1 h).1
    exact ⟨a, ha ▸ h⟩

theorem existsUnique_word {i : Instr} (h : i.wellFormed = true) : ∃! w, decode w = .ok i :=
  ⟨encode i, decode_encode h, fun _ hw => (decode_eq_ok_iff.1 hw).2.symm⟩

/-- A machine with a key and everything else as after reset. -/
def withKey : State := { State.reset with ks := { Keystream.reset with key := [0#8] } }

/-- Settles O2: the legal words are those of `legalCommand`, and `XOR 4, 256` is one that leaves BUF. -/
theorem legalWordsCounted : Obligations.LegalWordsCounted := by
  refine ⟨card_legal_words, by decide, fun i hi => existsUnique_word ?_,
    card_rangeCommand_words (by simp) fun _ _ => rfl, card_rangeCommand_words (by simp) fun _ _ => rfl,
    card_checkCommand_words,
    _, 4, 256, withKey, complete .bufRange withKey, decode_encode rfl, by decide, rfl, rfl⟩
  decide +revert

end Sys2Proof.Proofs
end

section
/-! SUPPORT. An illegal word completes without an effect (O18), and the host program RUN c ends (O22). -/

namespace Sys2Proof.Proofs

open Sys2Proof.Machine Sys2Proof.Claims

/-! ### An illegal word -/

theorem executeWord_of_error {w : Word} {e : DecodeError} (hd : decode w = .error e) (s : State) :
    executeWord exec w s = .next (complete .illegalCmd s) := by
  rw [executeWord, hd]
  rfl

theorem untouched_complete_takeInput (e : ErrCode) (s : State) : Untouched s (complete e (takeInput s)) :=
  ⟨rfl, rfl, rfl, ⟨rfl, rfl⟩, readRam_congr rfl rfl⟩

/-- Settles O18: the last cycle is the completion with ILLEGAL_CMD, and a completion is but its record. -/
theorem illegalWordCompletesWithoutEffect : Obligations.IllegalWordCompletesWithoutEffect := by
  intro s w e hp hd hrem hc
  exact ⟨complete .illegalCmd (takeInput s), (step_last_idle hc hp hrem).trans (executeWord_of_error hd _),
    recorded_complete _ rfl rfl, untouched_complete_takeInput _ s, rfl⟩

/-! ### A poll -/

/-- `s` as a read of STATUS leaves it for the engine: nothing moved but the response. -/
def polled (s : State) : State :=
  { s with inbox := [], resp := some { resp := .okay, data := some (statusWord s) } }

/-- `s` about to begin a cycle in which the host reads STATUS. -/
def beforePoll (s : State) : State := { s with inbox := [{ reset := false, bus := some (regRead .status) }] }

theorem busPhase_poll (s : State) :
    busPhase (cycleInput (beforePoll s)).bus (takeInput (beforePoll s)) = .next (polled s) := by
  have hlegal : ¬Illegal (regRead .status) := by
    rw [← reqReg_eq_none_iff, reqReg_regRead]
    exact Option.some_ne_none _
  have hstatus : BusyReadable .status := by simp [BusyReadable]
  rw [show (cycleInput (beforePoll s)).bus = some (regRead .status) from rfl, busPhase_legal hlegal, transact_regRead,
    readReg_eq_regValue (.inr hstatus)]
  rfl

theorem hostCycle_poll_idle {s : State} (hp : s.pend = none) : hostCycle (regRead .status) s = .next (polled s) :=
  step_idle rfl (busPhase_poll s) hp

theorem hostCycle_poll_wait {s : State} {w : Word} (hp : s.pend = some w) (hrem : 1 < s.remaining) :
    hostCycle (regRead .status) s = .next { polled s with remaining := s.remaining - 1 } :=
  step_wait rfl (busPhase_poll s) hp hrem

theorem hostCycle_poll_last {s : State} {w : Word} (hp : s.pend = some w) (hrem : s.remaining ≤ 1) :
    hostCycle (regRead .status) s = executeWord exec w (polled s) :=
  step_last rfl (busPhase_poll s) hp hrem

/-- A poll sees BUSY as it was when its cycle began (R27). -/
theorem sawBusy_of_resp {s t : State} (h : t.resp = (polled s).resp) : sawBusy t = s.busy := by
  obtain ⟨hbusy, -⟩ := statusWord_flags s
  rw [← hbusy, sawBusy, h]
  rfl

/-! ### Lines of a host program -/

theorem hostRun_succ {op : HostOp} {ops : List HostOp} {s t : State} (h : hostCycle (opRequest op) s = .next t) (n : Nat) :
    hostRun (n + 1) (op :: ops) s = hostRun n (opsLeft op ops t) t := by
  simp only [hostRun, hostStep, h]

/-- A line other than a poll is done with its transaction. -/
theorem hostRun_succ_wr {r : Reg} {v : Word} {ops : List HostOp} {s t : State} (h : hostCycle (regWrite r v) s = .next t)
    (n : Nat) : hostRun (n + 1) (.wr r v :: ops) s = hostRun n ops t := by
  rw [hostRun_succ (op := .wr r v) h, opsLeft, if_neg (by simp)]

/-- A poll of a busy machine stays. -/
theorem hostRun_succ_poll_busy {s t : State} (hs : s.busy = true) (h : hostCycle (regRead .status) s = .next t)
    (hresp : t.resp = (polled s).resp) (ops : List HostOp) (n : Nat) :
    hostRun (n + 1) (.poll :: ops) s = hostRun n (.poll :: ops) t := by
  rw [hostRun_succ (op := .poll) h, opsLeft, if_pos ⟨rfl, (sawBusy_of_resp hresp).trans hs⟩]

/-- A poll of an idle machine is done (R70). -/
theorem hostRun_succ_poll_idle {s : State} (hp : s.pend = none) (ops : List HostOp) (n : Nat) :
    hostRun (n + 1) (.poll :: ops) s = hostRun n ops (polled s) := by
  have hidle : ¬(HostOp.poll = .poll ∧ sawBusy (polled s) = true) := by
    rw [sawBusy_of_resp rfl, (busy_eq_false_iff s).2 hp]
    simp
  rw [hostRun_succ (op := .poll) (hostCycle_poll_idle hp), opsLeft, if_neg hidle]

/-! ### RUN c -/

/-- `s` in the last cycle of LAT of the word in PEND, polled. -/
def polledLast (s : State) : State := { polled s with remaining := 1 }

theorem polled_eq_polledLast {s : State} (h : s.remaining = 1) : polled s = polledLast s := by
  rw [polledLast, ← h]
  rfl

/-- Polls let LAT pass; the one in its last cycle finds the word executed on the state as it was, and one more reads
BUSY = 0. -/
theorem hostRun_poll_completes {w : Word} (k : Nat) {s v : State} (hp : s.pend = some w) (hk : s.remaining = k + 1)
    (hx : executeWord exec w (polledLast s) = .next v) (hv : v.pend = none) (hresp : v.resp = (polledLast s).resp) :
    hostRun (k + 2) [.poll] s = .next ([], polled v) := by
  have hbusy : s.busy = true := (busy_eq_true_iff s).2 ⟨w, hp⟩
  induction k generalizing s with
  | zero =>
    have hlast : hostCycle (regRead .status) s = .next v := by
      rw [hostCycle_poll_last hp (by omega), polled_eq_polledLast hk, hx]
    rw [hostRun_succ_poll_busy hbusy hlast hresp, hostRun_succ_poll_idle hv]
    rfl
  | succ k ih =>
    rw [hostRun_succ_poll_busy hbusy (hostCycle_poll_wait hp (by omega)) rfl]
    exact ih hp (by dsimp only; omega) hx hresp hbusy

/-- What the transaction of a CMD write makes of an idle machine. -/
def issuedByHost (w : Word) (s : State) : State :=
  justIssued w { s with inbox := [{ reset := false, bus := some (regWrite .cmd w) }] }

theorem hostCycle_cmd {s : State} (hp : s.pend = none) (w : Word) :
    hostCycle (regWrite .cmd w) s = .next (issuedByHost w s) :=
  step_cmd_write hp rfl

/-- Settles O22: the write issues the word, and `hostRun_poll_completes` is the poll through its LAT. -/
theorem runCommandEnds : Obligations.RunCommandEnds := by
  intro s i hp hwf
  obtain ⟨v, e, hx, ⟨-, hlast, hidle, -⟩, hirqEn, -, hresp, -⟩ :=
    everyCommandCompletes i (polledLast (issuedByHost (encode i) s))
  have hpoll : hostRun (Config.latency s.draws + 2) [.poll] (issuedByHost (encode i) s) = .next ([], polled v) :=
    hostRun_poll_completes _ rfl rfl ((executeWord_of_decode (decode_encode hwf) _).trans hx) hidle hresp
  exact ⟨Config.latency s.draws + 2 + 1, polledLast (issuedByHost (encode i) s), v, polled v,
    (hostRun_succ_wr (hostCycle_cmd hp _) _).trans hpoll, hidle, hlast _ rfl, rfl,
    ⟨rfl, rfl, rfl, ⟨rfl, rfl⟩, readRam_congr rfl rfl⟩, rfl, rfl, rfl, rfl, hx,
    ⟨rfl, rfl, rfl, ⟨rfl, rfl⟩, readRam_congr rfl rfl⟩, rfl, rfl, hirqEn⟩

end Sys2Proof.Proofs
end

section
/-! SUPPORT. NOP (O28), INIT (O29) and CLOSE (O30). -/

namespace Sys2Proof.Proofs

open Sys2Proof.Machine Sys2Proof.Claims

/-! ### An effect and its completion -/

/-- The completion after an effect records itself over what the command found (R56). -/
theorem Effect.recorded {i : Instr} {s s' : State} (h : Effect i s s') (e : ErrCode) : Recorded e s (complete e s') :=
  recorded_complete e h.pend_eq (by rw [h.frame])

theorem Effect.sameOutside {i : Instr} {s s' : State} (h : Effect i s s') (e : ErrCode) :
    SameOutside s (complete e s') := by
  rw [h.frame]
  exact ⟨rfl, rfl, rfl, rfl, rfl⟩

/-! ### NOP -/

theorem exec_nop (s : State) : exec .nop s = .next (complete .ok s) := rfl

theorem untouched_complete (e : ErrCode) (s : State) : Untouched s (complete e s) :=
  ⟨rfl, rfl, rfl, ⟨rfl, rfl⟩, readRam_congr rfl rfl⟩

/-- Settles O28: NOP has no effect, and a completion is but its record. -/
theorem nopOnlyCompletes : Obligations.NopOnlyCompletes := fun s =>
  have heff : Effect .nop s s := .unchanged _ s
  ⟨_, exec_nop s, heff.recorded _, heff.sameOutside _, untouched_complete _ s⟩

/-! ### The byte strings of INIT and of a zeroed state -/

theorem nth_replicate {α : Type} {n i : Nat} (x d : α) (h : i < n) : nth (Vector.replicate n x) i d = x := by
  rw [nth_eq_getElem _ _ h, Vector.getElem_replicate]

/-- Byte `j` of `KEY[0..n)` is byte `j` of the KEY registers (R23). -/
theorem getD_keyString (s : State) {n j : Nat} (h : j < n) : (keyString s.cfg n).getD j 0 = keyRegByte s j := by
  simp [keyString, h, byteOfWords, wordByte, keyRegByte]

/-- Byte `j` of IVB_L as INIT latches it is byte `j` of the IVB registers (R24). -/
theorem nth_ivbString (s : State) {j : Nat} (h : j < 8) : nth (ivbString s.cfg) j 0 = ivbRegByte s j :=
  nth_tab (byteOfWords s.cfg.ivb) 0 h

/-- A latched key is never empty, whatever KEYLEN, so KS_READY is 1 (R38). -/
theorem ksReady_of_initKeystream {t : State} {c : ConfigRegs} (h : t.ks = initKeystream c) : t.ksReady = true := by
  have hlen : t.ks.key.length = keyBytes c := by rw [h]; exact keyString_length c _
  have hne : t.ks.key ≠ [] := by
    rw [← List.length_pos_iff, hlen]
    rcases keyBytes_cases c with hk | hk | hk <;> omega
  simpa [State.ksReady] using hne

/-! ### INIT -/

theorem exec_init_ok {s : State} (h : s.cfg.keylen ≠ 3#2) :
    exec .init s = .next (complete .ok { s with ks := initKeystream s.cfg }) := by
  rcases execInit_cases s with ⟨hbad, -⟩ | ⟨-, hok⟩
  · exact absurd hbad h
  · exact hok

/-- Settles O29: the keystream state is `initKeystream`, its key and IVB_L read byte by byte, and nothing else is
written. -/
theorem initLatchesKeyAndPrefix : Obligations.InitLatchesKeyAndPrefix := by
  intro s hlen
  have heff : Effect .init s { s with ks := initKeystream s.cfg } := .init s
  have hkey : (initKeystream s.cfg).key.length = keyBytes s.cfg := keyString_length _ _
  exact ⟨_, exec_init_ok hlen, heff.recorded _, heff.sameOutside _,
    hkey, fun j hj => getD_keyString s (hkey ▸ hj), fun j hj => nth_ivbString s hj, fun j hj => nth_replicate _ _ hj,
    rfl, rfl, rfl, ksReady_of_initKeystream rfl, rfl, rfl, ⟨rfl, rfl⟩, readRam_congr rfl rfl⟩

/-! ### CLOSE -/

theorem exec_close (s : State) : exec .close s = .next (complete .ok (forgetKey s)) := rfl

/-- Settles O30: `forgetKey` leaves the keystream state of reset, KEY and HDR_OK zero, and writes nothing else. -/
theorem closeForgetsTheKey : Obligations.CloseForgetsTheKey := fun s =>
  have heff : Effect .close s (forgetKey s) := .close s
  ⟨_, exec_close s, heff.recorded _, heff.sameOutside _,
    rfl, rfl, fun _ hj => nth_replicate _ _ hj, fun _ hj => nth_replicate _ _ hj, rfl, rfl, rfl,
    fun _ hk => nth_replicate _ _ hk, rfl, rfl, rfl, rfl, rfl, rfl, rfl, rfl, readRam_congr rfl rfl⟩

end Sys2Proof.Proofs
end

section
/-! SUPPORT. SEEK (O31, O32), XOR's byte law (O33), what follows from it for two XORs (O34, O35), and CTR's bound
(O37). -/

namespace Sys2Proof.Proofs

open Sys2Proof.Machine Sys2Proof.Claims

/-! ### SEEK -/

/-- The two ARG words as one number (R25). -/
theorem toNat_seekOffset (s : State) : (seekOffset s.cfg).toNat = seekPos s := by
  rw [seekOffset, BitVec.toNat_append, ← Nat.shiftLeft_add_eq_or_of_lt s.cfg.argLo.isLt, Nat.shiftLeft_eq, seekPos]

@[simp] theorem seekKeystream_pos (ks : Keystream) (p : DWord) : (seekKeystream ks p).pos = p := by
  unfold seekKeystream; dsimp only; split <;> rfl

/-- At a block boundary SEEK leaves no keystream in ECOUNT (R78). -/
theorem seekKeystream_ecount_of_boundary (ks : Keystream) {p : DWord} (h : p.toNat % 16 = 0) :
    (seekKeystream ks p).ecount = Vector.replicate 16 0#8 := by
  unfold seekKeystream; dsimp only; rw [if_neg (not_not_intro h)]

/-- Inside a block SEEK leaves that block in ECOUNT (R78). -/
theorem seekKeystream_ecount_inside (ks : Keystream) {p : DWord} (h : p.toNat % 16 ≠ 0) :
    (seekKeystream ks p).ecount = keystreamBlock ks (BitVec.ofNat 64 (p.toNat / 16)) := by
  unfold seekKeystream; dsimp only; rw [if_pos h]

/-- SEEK reads KS_KEY and IVB_L, and none of the keystream state it writes (R80). -/
theorem seekKeystream_congr {ks ks' : Keystream} (hk : ks'.key = ks.key) (hi : ks'.ivb = ks.ivb) (p : DWord) :
    seekKeystream ks' p = seekKeystream ks p := by
  unfold seekKeystream; dsimp only; split <;> simp only [hk, hi, keystreamBlock_congr hk hi]

theorem seekKeystream_seekKeystream (ks : Keystream) (p : DWord) :
    seekKeystream (seekKeystream ks p) p = seekKeystream ks p :=
  seekKeystream_congr (seekKeystream_key ks p) (seekKeystream_ivb ks p) p

/-- What SEEK leaves when its checks pass; `exec_seek_ok` ties it to `exec`. -/
def afterSeek (s : State) : State := complete .ok { s with ks := seekKeystream s.ks (seekOffset s.cfg) }

@[simp] theorem afterSeek_ks (s : State) : (afterSeek s).ks = seekKeystream s.ks (seekOffset s.cfg) := rfl

theorem sameRam_afterSeek (s : State) : SameRam s (afterSeek s) := readRam_congr rfl rfl

theorem ksi_afterSeek {s : State} (range : seekPos s < 2 ^ 63) : KSI (afterSeek s).ks :=
  ksi_seekKeystream _ _ (by rwa [toNat_seekOffset])

theorem exec_seek_posRange {s : State} (ready : s.ksReady = true) (range : 2 ^ 63 ≤ seekPos s) :
    exec .seek s = .next (complete .posRange s) := by
  rw [← toNat_seekOffset] at range
  rcases execSeek_cases s with ⟨hready, -⟩ | ⟨-, -, hposRange⟩ | ⟨-, hrange, -⟩
  · simp [ready] at hready
  · exact hposRange
  · omega

theorem exec_seek_ok {s : State} (ready : s.ksReady = true) (range : seekPos s < 2 ^ 63) :
    exec .seek s = .next (afterSeek s) := by
  rw [← toNat_seekOffset] at range
  rcases execSeek_cases s with ⟨hready, -⟩ | ⟨-, hrange, -⟩ | ⟨-, -, hok⟩
  · simp [ready] at hready
  · omega
  · exact hok

/-- Settles O31: NUM, CTR and the block in ECOUNT follow from KSI at the offset; ECOUNT at a boundary is SEEK's own. -/
theorem seekSetsTheOffset : Obligations.SeekSetsTheOffset := by
  intro s ready range
  have hpos := toNat_seekOffset s
  have heff : Effect .seek s { s with ks := seekKeystream s.ks (seekOffset s.cfg) } := .seek s ready (hpos ▸ range)
  obtain ⟨-, hnum, hinside, hboundary⟩ := ksi_afterSeek range
  simp only [afterSeek_ks, seekKeystream_pos, hpos] at hnum hinside hboundary
  refine ⟨_, exec_seek_ok ready range, heff.recorded _, heff.sameOutside _, by simpa using hpos, hnum,
    fun h => ⟨?_, ?_⟩, fun h => ⟨?_, fun j hj => ?_⟩,
    seekKeystream_key _ _, seekKeystream_ivb _ _, rfl, rfl, ⟨rfl, rfl⟩, sameRam_afterSeek s⟩
  · exact (hinside fun h0 => h (by rw [← hnum, h0]; rfl)).1
  · rw [← hpos] at h ⊢
    exact seekKeystream_ecount_inside s.ks h
  · exact hboundary (BitVec.eq_of_toNat_eq (hnum.trans h))
  · rw [afterSeek_ks, seekKeystream_ecount_of_boundary s.ks (hpos ▸ h), nth_replicate _ _ hj]

/-- A completion recorded twice, with the same word in PEND, is recorded once. -/
theorem complete_complete {s : State} {w : Word} (hw : s.pend = some w) (e : ErrCode) :
    complete e { complete e s with pend := some w } = complete e s := by
  simp [complete, hw, BitVec.or_assoc]

theorem afterSeek_afterSeek {s : State} {w : Word} (hw : s.pend = some w) :
    afterSeek { afterSeek s with pend := some w } = afterSeek s := by
  simp only [afterSeek, complete_ks, complete_cfg, seekKeystream_seekKeystream]
  exact complete_complete (s := { s with ks := seekKeystream s.ks (seekOffset s.cfg) }) hw .ok

/-- KS_READY depends on KS_KEY alone (R38). -/
theorem ksReady_congr {s t : State} (h : t.ks.key = s.ks.key) : t.ksReady = s.ksReady := by
  rw [State.ksReady, State.ksReady, h]

/-- Settles O32: each outcome of SEEK repeats itself, since `seekKeystream` reads only what it keeps. -/
theorem seekIsIdempotent : Obligations.SeekIsIdempotent := by
  refine ⟨fun s t w hw ready h => ?_, fun s s' t t' ready range hcfg hkey hivb h h' => ?_⟩
  · by_cases range : seekPos s < 2 ^ 63
    · have ready' : (afterSeek s).ksReady = true := (ksReady_congr (seekKeystream_key _ _)).trans ready
      cases (exec_seek_ok ready range).symm.trans h
      rw [exec_seek_ok (s := { afterSeek s with pend := some w }) ready' range, afterSeek_afterSeek hw]
    · have range := Nat.le_of_not_lt range
      cases (exec_seek_posRange ready range).symm.trans h
      rw [exec_seek_posRange (s := { complete .posRange s with pend := some w }) ready range, complete_complete hw]
  · have ready' : s'.ksReady = true := (ksReady_congr hkey).trans ready
    have range' : seekPos s' < 2 ^ 63 := by rwa [seekPos, hcfg]
    cases (exec_seek_ok ready range).symm.trans h
    cases (exec_seek_ok ready' range').symm.trans h'
    rw [afterSeek_ks, afterSeek_ks, hcfg, seekKeystream_congr hkey hivb]

/-! ### CTR's bound -/

/-- Settles O37: KSI gives CTR as POS/16 or one more, and POS is below 2^63. -/
theorem counterNeverWraps : Obligations.CounterNeverWraps := by
  rintro ks ⟨hpos, -, hinside, hboundary⟩
  have hmax : Config.posMax = 2 ^ 63 - 1 := rfl
  have hctr : ks.ctr.toNat ≤ 2 ^ 59 := by
    by_cases h0 : ks.num = 0#4
    · have := hboundary h0
      omega
    · have := (hinside h0).1
      omega
  exact ⟨hctr, by bv_omega⟩

/-! ### XOR's byte law -/

/-- A keystream byte depends on the offset, KS_KEY and IVB_L alone (R44). -/
theorem keystreamByte_congr {ks ks' : Keystream} (hk : ks'.key = ks.key) (hi : ks'.ivb = ks.ivb) (q : Nat) :
    keystreamByte ks' q = keystreamByte ks q := by
  rw [keystreamByte, keystreamByte, keystreamBlock_congr hk hi]

/-- Under KSI the byte XOR takes from ECOUNT is the keystream byte of POS (R44, R79). -/
theorem nth_refillBlock_ecount {ks : Keystream} (h : KSI ks) :
    nth (refillBlock ks).ecount ks.num.toNat 0 = keystreamByte ks ks.pos.toNat := by
  obtain ⟨-, hnum, hinside, hboundary⟩ := h
  rw [keystreamByte, ← hnum]
  by_cases h0 : ks.num = 0#4
  · rw [← hboundary h0, BitVec.ofNat_toNat, BitVec.setWidth_eq, refillBlock, if_pos h0]
  · rw [← (hinside h0).2, refillBlock, if_neg h0]

/-- One pass of XOR's loop at offset `p` (R79). -/
theorem bufByte_xorByte {s : State} {p : DWord} (h : KSI (atPos s.ks p)) (i : Nat) :
    bufByte (xorByte i s) i = bufByte s i ^^^ keystreamByte s.ks p.toNat := by
  have hbyte := nth_refillBlock_ecount h
  rw [refillBlock_atPos] at hbyte
  rw [bufByte, xorByte, readRam_writeRam_same, refillBlock_num]
  exact congrArg _ hbyte

theorem bufByte_xorByte_other {i j : Nat} (s : State) (h : i ≠ j) : bufByte (xorByte i s) j = bufByte s j :=
  readRam_xorBytes_outside 1 i s _ (by omega)

/-- XOR's loop from offset `p`: byte `i + k` meets the keystream byte of `p + k` (R79, R44). -/
theorem bufByte_xorBytes {n k : Nat} (i : Nat) {s : State} {p : DWord} (h : KSI (atPos s.ks p))
    (hp : p.toNat + n ≤ Config.posMax) (hk : k < n) :
    bufByte (xorBytes n i s) (i + k) = bufByte s (i + k) ^^^ keystreamByte s.ks (p.toNat + k) := by
  induction n generalizing i s p k with
  | zero => omega
  | succ n ih =>
    have hmax : Config.posMax = 2 ^ 63 - 1 := rfl
    have hp1 : (p + 1).toNat = p.toNat + 1 := by bv_omega
    cases k with
    | zero =>
      have hlater : bufByte (xorBytes (n + 1) i s) i = bufByte (xorByte i s) i :=
        readRam_xorBytes_outside n (i + 1) (xorByte i s) _ (by omega)
      exact hlater.trans (bufByte_xorByte h i)
    | succ k =>
      have hnext : KSI (atPos (xorByte i s).ks (p + 1)) := ksi_xorBytes 1 i s p h (by omega)
      have hks (q : Nat) : keystreamByte (xorByte i s).ks q = keystreamByte s.ks q :=
        keystreamByte_congr (xorBytes_ks_key 1 i s) (xorBytes_ks_ivb 1 i s) q
      have hrest := ih (i + 1) hnext (by omega) (show k < n by omega)
      rw [hks, hp1, bufByte_xorByte_other s (by omega)] at hrest
      rw [xorBytes, Nat.add_comm k 1, ← Nat.add_assoc, ← Nat.add_assoc]
      exact hrest

/-- What XOR leaves when its checks pass; `exec_xor_ok` ties it to `exec`. -/
def afterXor (off : BitVec 8) (len : BitVec 9) (s : State) : State :=
  complete .ok (advancePos len (xorBytes len.toNat off.toNat s))

theorem exec_xor_ok {s : State} {off : BitVec 8} {len : BitVec 9} (ready : s.ksReady = true)
    (inBuf : off.toNat + len.toNat ≤ 256) (range : s.ks.pos.toNat + len.toNat ≤ 2 ^ 63 - 1) :
    exec (.xor off len) s = .next (afterXor off len s) := by
  rcases execXor_cases off len s with ⟨hready, -⟩ | ⟨-, hbuf, -⟩ | ⟨-, -, hrange, -⟩ | ⟨-, -, -, hok⟩
  · simp [ready] at hready
  · omega
  · omega
  · exact hok

/-- XOR completes with OK only when its checks passed (R104). -/
theorem exec_xor_err_ok {s t : State} {off : BitVec 8} {len : BitVec 9} (h : exec (.xor off len) s = .next t)
    (hok : t.err = .ok) : s.ks.pos.toNat + len.toNat ≤ 2 ^ 63 - 1 ∧ t = afterXor off len s := by
  rcases execXor_cases off len s with ⟨-, hx⟩ | ⟨-, -, hx⟩ | ⟨-, -, -, hx⟩ | ⟨-, -, range, hx⟩ <;>
    cases hx.symm.trans h
  · cases hok
  · cases hok
  · cases hok
  · exact ⟨range, rfl⟩

section AfterXor

variable {s : State} {off : BitVec 8} {len : BitVec 9}

/-- XOR's byte law (R79, R44). -/
theorem bufByte_afterXor {k : Nat} (h : KSI s.ks) (range : s.ks.pos.toNat + len.toNat ≤ 2 ^ 63 - 1)
    (hk : k < len.toNat) :
    bufByte (afterXor off len s) (off.toNat + k) =
      bufByte s (off.toNat + k) ^^^ keystreamByte s.ks (s.ks.pos.toNat + k) :=
  bufByte_xorBytes off.toNat h range hk

theorem sameRamBut_afterXor : SameRamBut (bufBase + off.toNat) len.toNat s (afterXor off len s) :=
  fun a ha => readRam_xorBytes_outside len.toNat off.toNat s a ha

theorem afterXor_pos : (afterXor off len s).ks.pos = s.ks.pos + len.setWidth 64 := by
  simp [afterXor]

@[simp] theorem afterXor_key : (afterXor off len s).ks.key = s.ks.key := by simp [afterXor]

@[simp] theorem afterXor_ivb : (afterXor off len s).ks.ivb = s.ks.ivb := by simp [afterXor]

theorem toNat_afterXor_pos (range : s.ks.pos.toNat + len.toNat ≤ 2 ^ 63 - 1) :
    (afterXor off len s).ks.pos.toNat = s.ks.pos.toNat + len.toNat := by
  rw [afterXor_pos]; bv_omega

theorem ksi_afterXor (h : KSI s.ks) (range : s.ks.pos.toNat + len.toNat ≤ 2 ^ 63 - 1) : KSI (afterXor off len s).ks :=
  ksi_advancePos_xorBytes off len s h range

theorem afterXor_ks_of_len_zero (h : len = 0) : (afterXor off len s).ks = s.ks := by
  subst h; simp [afterXor, xorBytes]

theorem afterXor_frame :
    (afterXor off len s).cfg = s.cfg ∧ (afterXor off len s).dg = s.dg ∧ SameHdrStatus s (afterXor off len s) := by
  rw [afterXor, (xorBytes_frame _ _ s).1]
  exact ⟨rfl, rfl, rfl, rfl⟩

end AfterXor

/-- Settles O33: the byte law and KSI are inductions over the loop, and the rest is XOR's frame. -/
theorem xorAppliesTheKeystreamLaw : Obligations.XorAppliesTheKeystreamLaw := by
  intro s off len ready hksi inBuf range
  have heff := Effect.xor s off len ready inBuf range
  obtain ⟨hcfg, hdg, hhdr⟩ := afterXor_frame (s := s) (off := off) (len := len)
  exact ⟨_, exec_xor_ok ready inBuf range, heff.recorded _, heff.sameOutside _,
    fun _ hi => bufByte_afterXor hksi range hi, sameRamBut_afterXor, toNat_afterXor_pos range,
    ksi_afterXor hksi range, afterXor_ks_of_len_zero, afterXor_key, afterXor_ivb, hcfg, hdg, hhdr⟩

/-! ### Two XORs at the same offsets -/

/-- A second XOR, with the KS_KEY and IVB_L of the first, takes any part of the first one's result back to the data:
both meet the same keystream bytes, and `(d ^^^ k) ^^^ k = d` (R81, R82). -/
theorem bufByte_afterXor_afterXor {s u : State} {off off' : BitVec 8} {len len' : BitVec 9} {k i : Nat} (hs : KSI s.ks)
    (hu : KSI u.ks) (range : s.ks.pos.toNat + len.toNat ≤ 2 ^ 63 - 1) (hkey : u.ks.key = s.ks.key)
    (hivb : u.ks.ivb = s.ks.ivb) (hpos : u.ks.pos.toNat = s.ks.pos.toNat + k) (hsub : k + len'.toNat ≤ len.toNat)
    (hi : i < len'.toNat)
    (hdata : bufByte u (off'.toNat + i) = bufByte (afterXor off len s) (off.toNat + (k + i))) :
    bufByte (afterXor off' len' u) (off'.toNat + i) = bufByte s (off.toNat + (k + i)) := by
  have hfirst := bufByte_afterXor (off := off) hs range (show k + i < len.toNat by omega)
  have hsecond := bufByte_afterXor (off := off') hu (by omega) hi
  rw [hsecond, hdata, hfirst, keystreamByte_congr hkey hivb, hpos, Nat.add_assoc, BitVec.xor_assoc, BitVec.xor_self,
    BitVec.xor_zero]

/-- Settles O34: inside the range the second XOR takes the first back, SEEK having brought POS back; outside it no
command writes. -/
theorem xorRoundTrip : Obligations.XorRoundTrip := by
  intro s t u v x off len ready hksi inBuf range hxor hks hram hseek hsought hagain
  cases (exec_xor_ok ready inBuf range).symm.trans hxor
  have urange : seekPos u < 2 ^ 63 := by omega
  have ukey : u.ks.key = s.ks.key := by rw [hks, afterXor_key]
  have uivb : u.ks.ivb = s.ks.ivb := by rw [hks, afterXor_ivb]
  cases (exec_seek_ok ((ksReady_congr ukey).trans ready) urange).symm.trans hsought
  have vkey : (afterSeek u).ks.key = s.ks.key := (seekKeystream_key _ _).trans ukey
  have vivb : (afterSeek u).ks.ivb = s.ks.ivb := (seekKeystream_ivb _ _).trans uivb
  have vpos : (afterSeek u).ks.pos = s.ks.pos :=
    BitVec.eq_of_toNat_eq (by rw [afterSeek_ks, seekKeystream_pos, toNat_seekOffset, hseek])
  have vram (a : Nat) : readRam (afterSeek u) a = readRam (afterXor off len s) a :=
    (sameRam_afterSeek u a).trans (hram a)
  cases (exec_xor_ok ((ksReady_congr vkey).trans ready) inBuf (by rwa [vpos])).symm.trans hagain
  refine ⟨rfl, by rw [afterXor_pos, afterXor_pos, vpos], fun a => ?_⟩
  by_cases ha : bufBase + off.toNat ≤ a ∧ a < bufBase + off.toNat + len.toNat
  · obtain ⟨i, rfl⟩ := Nat.exists_eq_add_of_le ha.1
    have hi : i < len.toNat := by omega
    have hback := bufByte_afterXor_afterXor (off := off) (off' := off) (k := 0) hksi (ksi_afterSeek urange) range vkey
      vivb (congrArg BitVec.toNat vpos) (Nat.zero_add _).le hi (by rw [Nat.zero_add]; exact vram _)
    rwa [Nat.zero_add, bufByte, bufByte, ← Nat.add_assoc] at hback
  · rw [sameRamBut_afterXor a ha, vram, sameRamBut_afterXor a ha]

/-- Settles O35: the sub-range lies in the offsets of the first XOR, so the second passes its checks and takes it
back. -/
theorem randomAccessDecrypts : Obligations.RandomAccessDecrypts := by
  intro s t u off off' len len' k ready hs hu hkey hivb hxor hok hpos hsub inBuf' hdata
  obtain ⟨range, rfl⟩ := exec_xor_err_ok hxor hok
  have range' : u.ks.pos.toNat + len'.toNat ≤ 2 ^ 63 - 1 := by omega
  exact ⟨_, exec_xor_ok ((ksReady_congr hkey).trans ready) inBuf' range', rfl,
    fun i hi => bufByte_afterXor_afterXor hs hu range hkey hivb hpos hsub hi (hdata i hi)⟩

end Sys2Proof.Proofs
end

section
/-! SUPPORT. The digest commands: DG_INIT (O38), DG_ABSORB (O39, O40), DG_FINAL_PWD and DG_FINAL_SALT (O41). -/

namespace Sys2Proof.Proofs

open Sys2Proof.Machine Sys2Proof.Claims

/-! ### The completion of a digest command -/

/-- What a digest command leaves when its checks pass, `d` being the new digest unit: nothing but `d` and the record of
its completion. `exec_dgInit`, `exec_dgAbsorb_ok`, `exec_dgFinalPwd_ok` and `exec_dgFinalSalt_ok` tie it to `exec`. -/
def afterDigest (d : DigestUnit) (s : State) : State := complete .ok { s with dg := d }

section AfterDigest

variable (d : DigestUnit) (s : State)

@[simp] theorem afterDigest_dg : (afterDigest d s).dg = d := rfl

theorem recorded_afterDigest : Recorded .ok s (afterDigest d s) := recorded_complete .ok rfl rfl

theorem sameOutside_afterDigest : SameOutside s (afterDigest d s) := ⟨rfl, rfl, rfl, rfl, rfl⟩

theorem sameRam_afterDigest : SameRam s (afterDigest d s) := readRam_congr rfl rfl

theorem afterDigest_frame :
    (afterDigest d s).cfg = s.cfg ∧ (afterDigest d s).ks = s.ks ∧ SameHdrStatus s (afterDigest d s) ∧
    SameRam s (afterDigest d s) :=
  ⟨rfl, rfl, ⟨rfl, rfl⟩, sameRam_afterDigest d s⟩

end AfterDigest

/-! ### DG_INIT -/

theorem exec_dgInit (s : State) :
    exec .dgInit s = .next (afterDigest { s.dg with sponge := Sponge.zero, active := true } s) := rfl

/-- Settles O38: DG_INIT puts the zero sponge in an active digest unit and asks for nothing. -/
theorem dgInitOpensAComputation : Obligations.DgInitOpensAComputation := fun s =>
  ⟨_, exec_dgInit s, recorded_afterDigest _ s, sameOutside_afterDigest _ s,
    rfl, fun _ hj => nth_replicate _ _ hj, rfl, rfl, rfl, rfl, rfl, afterDigest_frame _ s⟩

/-! ### The absorption of a byte -/

theorem nth_xorAt {n j : Nat} (v : Vector Byte n) (i : Nat) (b : Byte) (hj : j < n) :
    nth (xorAt v i b) j 0 = if j = i then nth v j 0 ^^^ b else nth v j 0 := by
  rw [xorAt, nth_setIfInBounds]
  by_cases hij : j = i
  · subst hij; simp [hj]
  · simp [hij, Ne.symm hij]

/-- Below the end of the rate block DG_IDX advances (R86). -/
theorem absorbByte_inside {sp : Sponge} (b : Byte) (h : sp.idx.val < 135) :
    absorbByte sp b = { bytes := xorAt sp.bytes sp.idx.val b, idx := ⟨sp.idx.val + 1, by omega⟩ } := by
  have hnext : sp.idx.val + 1 < 136 := by omega
  simp [absorbByte, hnext]

/-- The byte that fills the rate block is followed by Keccak-f, and DG_IDX returns to 0 (R86). -/
theorem absorbByte_full {sp : Sponge} (b : Byte) (h : sp.idx.val = 135) :
    absorbByte sp b = { bytes := keccakF (xorAt sp.bytes 135 b), idx := 0 } := by
  simp [absorbByte, h]

/-! ### DG_ABSORB -/

/-- The digest unit after the `n` bytes of BUF from `i` up are absorbed. -/
def absorbed (i n : Nat) (s : State) : DigestUnit := { s.dg with sponge := absorbBytes s.dg.sponge (bufSlice s i n) }

theorem exec_dgAbsorb_ok {s : State} {off : BitVec 8} {len : BitVec 9} (active : s.dg.active = true)
    (inBuf : off.toNat + len.toNat ≤ 256) :
    exec (.dgAbsorb off len) s = .next (afterDigest (absorbed off.toNat len.toNat s) s) := by
  rcases execDgAbsorb_cases off len s with ⟨hactive, -⟩ | ⟨-, hbuf, -⟩ | ⟨-, -, hok⟩
  · simp [active] at hactive
  · omega
  · exact hok

/-- Settles O39: DG_ABSORB folds `absorbByte` over its range, and `absorbByte` either advances DG_IDX or permutes. -/
theorem dgAbsorbFollowsTheByteLoop : Obligations.DgAbsorbFollowsTheByteLoop := by
  refine ⟨fun s off len active inBuf => ?loop, fun sp b => ⟨fun hidx => ?inside, fun hidx => ?full⟩⟩
  case loop =>
    exact ⟨_, exec_dgAbsorb_ok active inBuf, recorded_afterDigest _ s, sameOutside_afterDigest _ s, rfl,
      afterDigest_frame _ s⟩
  case inside =>
    rw [absorbByte_inside b hidx]
    exact ⟨rfl, fun _ hj => nth_xorAt _ _ b hj⟩
  case full =>
    rw [absorbByte_full b hidx]
    exact ⟨rfl, _, rfl, fun _ hj => nth_xorAt _ _ b hj⟩

theorem bufSlice_add (s : State) (i m n : Nat) : bufSlice s i (m + n) = bufSlice s i m ++ bufSlice s (i + m) n := by
  simp [bufSlice, List.range_add, Nat.add_assoc]

theorem bufSlice_of_sameRam {s t : State} (h : SameRam s t) (i n : Nat) : bufSlice t i n = bufSlice s i n :=
  List.map_congr_left fun _ _ => h _

/-- DG_ABSORB leaves BUF alone, so the bytes that follow its range are still those the whole range ends with (R86). -/
theorem absorbed_afterDigest (i m n : Nat) (s : State) :
    absorbed (i + m) n (afterDigest (absorbed i m s) s) = absorbed i (m + n) s := by
  rw [absorbed, bufSlice_of_sameRam (sameRam_afterDigest _ s), afterDigest_dg]
  simp only [absorbed, bufSlice_add, absorbBytes_append]

/-- Settles O40: the two pieces are the range, and absorbing is a fold, so it splits with it. -/
theorem absorbSplits : Obligations.AbsorbSplits := by
  intro s t u v off off' len len' len2 active inBuf hoff hlen hfirst hsecond hwhole
  cases (exec_dgAbsorb_ok active (by omega)).symm.trans hfirst
  have tactive : (afterDigest (absorbed off.toNat len.toNat s) s).dg.active = true := active
  cases (exec_dgAbsorb_ok tactive (by omega)).symm.trans hsecond
  cases (exec_dgAbsorb_ok active inBuf).symm.trans hwhole
  simp only [afterDigest_dg, hoff, hlen, absorbed_afterDigest]

/-! ### DG_FINAL_PWD and DG_FINAL_SALT -/

theorem exec_dgFinalPwd_ok {s : State} (active : s.dg.active = true) :
    exec .dgFinalPwd s =
      .next (afterDigest { closeDigest s.dg with pwd := spongeDigest s.dg.sponge, pwdDv := true } s) := by
  rcases execDgFinalPwd_cases s with ⟨hactive, -⟩ | ⟨-, hok⟩
  · simp [active] at hactive
  · exact hok

theorem exec_dgFinalSalt_ok {s : State} (active : s.dg.active = true) :
    exec .dgFinalSalt s =
      .next (afterDigest { closeDigest s.dg with salt := spongeDigest s.dg.sponge, saltDv := true } s) := by
  rcases execDgFinalSalt_cases s with ⟨hactive, -⟩ | ⟨-, hok⟩
  · simp [active] at hactive
  · exact hok

/-- The digest is the first 32 bytes of the padded and permuted sponge (R87). -/
theorem nth_spongeDigest (sp : Sponge) {j : Nat} (h : j < 32) :
    nth (spongeDigest sp) j 0 = nth (keccakF (xorAt (xorAt sp.bytes sp.idx.val 0x06#8) 135 0x80#8)) j 0 :=
  nth_tab _ 0 h

/-- Settles O41: each final writes `spongeDigest` and its valid bit over the closed unit, and nothing else. -/
theorem dgFinalsWriteTheirDigest : Obligations.DgFinalsWriteTheirDigest := by
  refine fun s active => ⟨?pwd, ?salt⟩
  case pwd =>
    exact ⟨_, exec_dgFinalPwd_ok active, recorded_afterDigest _ s, sameOutside_afterDigest _ s,
      fun _ hj => nth_spongeDigest _ hj, rfl, rfl, rfl, rfl, rfl, afterDigest_frame _ s⟩
  case salt =>
    exact ⟨_, exec_dgFinalSalt_ok active, recorded_afterDigest _ s, sameOutside_afterDigest _ s,
      fun _ hj => nth_spongeDigest _ hj, rfl, rfl, rfl, rfl, rfl, afterDigest_frame _ s⟩

end Sys2Proof.Proofs
end

section
/-! SUPPORT. The header commands: HDR_BUILD (O43), HDR_CHECK (O44), and the two together (O45, O46). -/

namespace Sys2Proof.Proofs

open Sys2Proof.Machine Sys2Proof.Claims

/-! ### A byte string in HDR -/

/-- HDR holds the byte string `bs` from byte `i` up. -/
def HdrHolds (s : State) (i : Nat) (bs : List Byte) : Prop := hdrSlice s i bs.length = bs

@[simp] theorem hdrSlice_length (s : State) (i n : Nat) : (hdrSlice s i n).length = n := by simp [hdrSlice]

theorem hdrHolds_iff (s : State) (i : Nat) (bs : List Byte) :
    HdrHolds s i bs ↔ ∀ j < bs.length, hdrByte s (i + j) = bs.getD j 0 := by
  rw [HdrHolds, List.ext_getElem_iff]
  simp +contextual [hdrSlice]

theorem hdrSlice_add (s : State) (i m n : Nat) : hdrSlice s i (m + n) = hdrSlice s i m ++ hdrSlice s (i + m) n := by
  simp [hdrSlice, List.range_add, Nat.add_assoc]

/-- A concatenation lies in HDR piece after piece, which is how the layout of R89 gives each field its place. -/
theorem hdrHolds_append (s : State) (i : Nat) (xs ys : List Byte) :
    HdrHolds s i (xs ++ ys) ↔ HdrHolds s i xs ∧ HdrHolds s (i + xs.length) ys := by
  rw [HdrHolds, List.length_append, hdrSlice_add, List.append_eq_append_iff_of_size_eq_left (by simp)]
  rfl

theorem HdrHolds.unique {s : State} {i : Nat} {xs ys : List Byte} (hx : HdrHolds s i xs) (hy : HdrHolds s i ys)
    (hlen : xs.length = ys.length) : xs = ys :=
  calc xs = hdrSlice s i xs.length := hx.symm
    _ = hdrSlice s i ys.length := by rw [hlen]
    _ = ys := hy

/-- What HDR holds depends on its bytes alone. -/
theorem HdrHolds.congr {s t : State} {bs : List Byte} (h : HdrHolds s 0 bs)
    (hbytes : ∀ j < bs.length, hdrByte t j = hdrByte s j) : HdrHolds t 0 bs := by
  simp only [hdrHolds_iff, Nat.zero_add] at h ⊢
  exact fun j hj => (hbytes j hj).trans (h j hj)

/-- The layout of R89: the place of each field in the header. -/
theorem hdrHolds_headerImage_iff (s : State) (c : ConfigRegs) (d : DigestUnit) :
    HdrHolds s 0 (headerImage c d) ↔
      HdrHolds s 0 [Config.magic, Config.version] ∧ HdrHolds s 2 (le32 (c.keylen.setWidth 32)) ∧
      HdrHolds s 6 (le32 c.rounds) ∧ HdrHolds s 10 d.pwd.toList ∧ HdrHolds s 42 d.salt.toList ∧
      HdrHolds s 74 (List.replicate 54 Config.magic) := by
  rw [headerImage]
  simp only [hdrHolds_append, List.length_append, le32_length, Vector.length_toList, and_assoc]
  rfl

theorem hdrHolds_magic_version_iff (s : State) :
    HdrHolds s 0 [Config.magic, Config.version] ↔ hdrByte s 0 = 0xCD#8 ∧ hdrByte s 1 = 0x01#8 := by
  simp [HdrHolds, hdrSlice, List.range_succ, Config.magic, Config.version]

section Fields

variable (s : State) (i : Nat)

theorem hdrHolds_le32_iff (w : Word) : HdrHolds s i (le32 w) ↔ ∀ j < 4, hdrByte s (i + j) = wordByte w j := by
  rw [hdrHolds_iff, le32_length]
  refine forall₂_congr fun j hj => ?_
  interval_cases j <;> rfl

theorem hdrHolds_digest_iff (d : Vector Byte 32) :
    HdrHolds s i d.toList ↔ ∀ j < 32, hdrByte s (i + j) = nth d j 0 := by
  rw [hdrHolds_iff, Vector.length_toList]
  rfl

theorem hdrHolds_replicate_iff (n : Nat) (b : Byte) :
    HdrHolds s i (List.replicate n b) ↔ ∀ j < n, hdrByte s (i + j) = b := by
  rw [hdrHolds_iff, List.length_replicate]
  exact forall₂_congr fun j hj => by rw [List.getD_replicate _ hj]

end Fields

/-! ### HDR_BUILD -/

/-- What HDR_BUILD leaves when its checks pass; `exec_hdrBuild_ready` ties it to `exec`. -/
def afterHdrBuild (s : State) : State := complete .ok (writeRamBytes hdrBase (headerImage s.cfg s.dg) s)

theorem exec_hdrBuild_ready {s : State} (h : HeaderReady s) : exec .hdrBuild s = .next (afterHdrBuild s) := by
  obtain ⟨hlen, hpwd, hsalt⟩ := h
  rcases execHdrBuild_cases s with ⟨hbad, -⟩ | ⟨-, hmissing, -⟩ | ⟨-, -, -, hok⟩
  · exact absurd hbad hlen
  · simp [hpwd, hsalt] at hmissing
  · exact hok

theorem readRam_afterHdrBuild (s : State) (a : Nat) :
    readRam (afterHdrBuild s) a =
      if hdrBase ≤ a ∧ a < hdrBase + 128 then (headerImage s.cfg s.dg).getD (a - hdrBase) 0 else readRam s a := by
  rw [← headerImage_length s.cfg s.dg, ← readRam_writeRamBytes]
  exact readRam_congr rfl rfl a

theorem hdrHolds_afterHdrBuild (s : State) : HdrHolds (afterHdrBuild s) 0 (headerImage s.cfg s.dg) := by
  refine (hdrHolds_iff _ _ _).2 fun j hj => ?_
  rw [headerImage_length] at hj
  rw [hdrByte, Nat.zero_add, readRam_afterHdrBuild, if_pos (by omega), Nat.add_sub_cancel_left]

theorem sameRamBut_afterHdrBuild (s : State) : SameRamBut hdrBase 128 s (afterHdrBuild s) := fun a ha => by
  rw [readRam_afterHdrBuild, if_neg ha]

@[simp] theorem afterHdrBuild_cfg (s : State) : (afterHdrBuild s).cfg = s.cfg := writeRamBytes_cfg _ _ s

@[simp] theorem afterHdrBuild_dg (s : State) : (afterHdrBuild s).dg = s.dg := writeRamBytes_dg _ _ s

/-- Settles O43: HDR then holds `headerImage`, whose fields `hdrHolds_headerImage_iff` places, and the rest is frame. -/
theorem hdrBuildWritesTheLayout : Obligations.HdrBuildWritesTheLayout := by
  intro s hready
  have heff : Effect .hdrBuild s (writeRamBytes hdrBase (headerImage s.cfg s.dg) s) := .hdrBuild s
  obtain ⟨hfirst, hkeylen, hrounds, hpwd, hsalt, hpad⟩ :=
    (hdrHolds_headerImage_iff _ _ _).1 (hdrHolds_afterHdrBuild s)
  obtain ⟨hmagic, hversion⟩ := (hdrHolds_magic_version_iff _).1 hfirst
  exact ⟨afterHdrBuild s, exec_hdrBuild_ready hready, heff.recorded _, heff.sameOutside _, hmagic, hversion,
    (hdrHolds_le32_iff _ _ _).1 hkeylen, (hdrHolds_le32_iff _ _ _).1 hrounds, (hdrHolds_digest_iff _ _ _).1 hpwd,
    (hdrHolds_digest_iff _ _ _).1 hsalt, (hdrHolds_replicate_iff _ _ _ _).1 hpad, sameRamBut_afterHdrBuild s,
    afterHdrBuild_cfg s, writeRamBytes_ks _ _ s, afterHdrBuild_dg s,
    writeRamBytes_hdrOk _ _ s, writeRamBytes_hdrResult _ _ s⟩

/-! ### The checks of HDR_CHECK -/

theorem magicBad_iff (s : State) : magicBad s = true ↔ hdrByte s 0 ≠ 0xCD#8 := bne_iff_ne

theorem le32_uLE32 {bs : List Byte} (h : bs.length = 4) : le32 (uLE32 bs) = bs :=
  match bs, h with
  | [b0, b1, b2, b3], _ => by simp [le32, uLE32, wordByte_packWord]

/-- Four bytes read as a word are `w` just when they are `LE32(w)` (R11). -/
theorem uLE32_hdrSlice_eq_iff (s : State) (i : Nat) (w : Word) :
    uLE32 (hdrSlice s i 4) = w ↔ HdrHolds s i (le32 w) := by
  rw [HdrHolds, le32_length]
  constructor
  · rintro rfl
    exact (le32_uLE32 (hdrSlice_length s i 4)).symm
  · intro h
    rw [h, uLE32_le32]

theorem keylenFieldBad_iff (s : State) :
    keylenFieldBad s = true ↔ ¬HdrHolds s 2 (le32 (s.cfg.keylen.setWidth 32)) := by
  rw [keylenFieldBad, bne_iff_ne, ne_eq, uLE32_hdrSlice_eq_iff]

theorem roundsFieldBad_iff (s : State) : roundsFieldBad s = true ↔ ¬HdrHolds s 6 (le32 s.cfg.rounds) := by
  rw [roundsFieldBad, bne_iff_ne, ne_eq, uLE32_hdrSlice_eq_iff]

theorem pwdFieldBad_iff (s : State) : pwdFieldBad s = true ↔ ¬HdrHolds s 10 s.dg.pwd.toList := by
  rw [pwdFieldBad, bne_iff_ne, HdrHolds, Vector.length_toList]

theorem saltFieldBad_iff (s : State) : saltFieldBad s = true ↔ ¬HdrHolds s 42 s.dg.salt.toList := by
  rw [saltFieldBad, bne_iff_ne, HdrHolds, Vector.length_toList]

theorem padBad_iff (s : State) : padBad s = true ↔ ¬HdrHolds s 74 (List.replicate 54 Config.magic) := by
  rw [hdrHolds_replicate_iff]
  simp [padBad, hdrSlice]

/-! ### HDR_RESULT -/

theorem headerResult_short (s : State) {len : BitVec 9} (h : len.toNat < 128) : headerResult s len = 0x00000001#32 :=
  if_pos h

section Full

variable (s : State) {len : BitVec 9} (h : 128 ≤ len.toNat)
include h

theorem headerResult_full :
    headerResult s len = 0#16 ++ hdrByte s 1 ++ 0#1 ++ bit (padBad s) ++ bit (saltFieldBad s) ++ bit (pwdFieldBad s)
      ++ bit (roundsFieldBad s) ++ bit (keylenFieldBad s) ++ bit (magicBad s) ++ 0#1 :=
  if_neg (Nat.not_lt.2 h)

theorem headerResult_flags :
    (headerResult s len).getLsbD 0 = false ∧ (headerResult s len).getLsbD 1 = magicBad s ∧
    (headerResult s len).getLsbD 2 = keylenFieldBad s ∧ (headerResult s len).getLsbD 3 = roundsFieldBad s ∧
    (headerResult s len).getLsbD 4 = pwdFieldBad s ∧ (headerResult s len).getLsbD 5 = saltFieldBad s ∧
    (headerResult s len).getLsbD 6 = padBad s ∧ (headerResult s len).getLsbD 7 = false := by
  simp only [headerResult_full s h, BitVec.getLsbD_append]
  simp [bit]

theorem headerResult_version : (headerResult s len).extractLsb' 8 8 = hdrByte s 1 := by
  refine extractLsb'_eq_of_getLsbD fun i hi => ?_
  simp only [headerResult_full s h, BitVec.getLsbD_append]
  interval_cases i <;> simp

theorem headerResult_reserved : (headerResult s len).extractLsb' 16 16 = 0#16 := by
  refine extractLsb'_eq_of_getLsbD fun i hi => ?_
  simp only [headerResult_full s h, BitVec.getLsbD_append]
  interval_cases i <;> simp

end Full

theorem headerPassed_iff (r : Word) : headerPassed r = true ↔ r.extractLsb' 0 7 = 0#7 := decide_eq_true_iff

/-- One failed check is enough (R91). -/
theorem headerPassed_eq_false {r : Word} {i : Nat} (hi : i < 7) (h : r.getLsbD i = true) : headerPassed r = false := by
  rw [← Bool.not_eq_true, headerPassed_iff]
  intro h0
  have hbit : (r.extractLsb' 0 7).getLsbD i = true := by simpa [hi] using h
  rw [h0] at hbit
  simp at hbit

/-! ### HDR_CHECK -/

/-- The code HDR_CHECK completes with (R91, R103). -/
def checkCode (r : Word) : ErrCode := if headerPassed r then .ok else .headerInvalid

/-- What HDR_CHECK leaves when it gets to compare; `exec_hdrCheck_ready` ties it to `exec`. -/
def afterHdrCheck (len : BitVec 9) (s : State) : State :=
  complete (checkCode (headerResult s len)) (recordCheck (headerResult s len) s)

theorem exec_hdrCheck_ready (len : BitVec 9) {s : State} (h : HeaderReady s) :
    exec (.hdrCheck len) s = .next (afterHdrCheck len s) := by
  obtain ⟨hlen, hpwd, hsalt⟩ := h
  rcases execHdrCheck_cases len s with
    ⟨hbad, -⟩ | ⟨-, hmissing, -⟩ | ⟨-, -, -, hfails, hexec⟩ | ⟨-, -, -, hpasses, hexec⟩
  · exact absurd hbad hlen
  · simp [hpwd, hsalt] at hmissing
  · rw [afterHdrCheck, checkCode, hfails]
    exact hexec
  · rw [afterHdrCheck, checkCode, hpasses]
    exact hexec

@[simp] theorem afterHdrCheck_hdrResult (len : BitVec 9) (s : State) :
    (afterHdrCheck len s).hdrResult = headerResult s len := rfl

/-- Settles O44: HDR_RESULT is `headerResult`, read bit by bit, and each flag says that HDR does not hold its field. -/
theorem hdrCheckRecordsEveryMismatch : Obligations.HdrCheckRecordsEveryMismatch := by
  intro s len hready
  have heff : Effect (.hdrCheck len) s (recordCheck (headerResult s len) s) := .hdrCheck s len
  refine ⟨afterHdrCheck len s, exec_hdrCheck_ready len hready, heff.sameOutside _, headerResult_short s,
    fun hfull => ?_, headerPassed_iff _, heff.recorded _, rfl, rfl, rfl, readRam_congr rfl rfl⟩
  obtain ⟨hshort, hmagic, hkeylen, hrounds, hpwd, hsalt, hpad, hbit7⟩ := headerResult_flags s hfull
  simp only [afterHdrCheck_hdrResult, hmagic, hkeylen, hrounds, hpwd, hsalt, hpad, magicBad_iff, keylenFieldBad_iff,
    roundsFieldBad_iff, pwdFieldBad_iff, saltFieldBad_iff, padBad_iff, hdrHolds_le32_iff, hdrHolds_digest_iff,
    hdrHolds_replicate_iff, wordByte, keylenByte, roundsByte, Config.magic, not_forall, exists_prop, true_and]
  exact ⟨hshort, hbit7, headerResult_version s hfull, headerResult_reserved s hfull⟩

/-! ### A built header under HDR_CHECK -/

/-- No check fails on the header of the configuration, and its version is 1 (R91). -/
theorem headerResult_of_image {s : State} (h : HdrHolds s 0 (headerImage s.cfg s.dg)) :
    headerResult s 128 = 0x00000100#32 := by
  obtain ⟨hfirst, hkeylen, hrounds, hpwd, hsalt, hpad⟩ := (hdrHolds_headerImage_iff _ _ _).1 h
  obtain ⟨hmagic, hversion⟩ := (hdrHolds_magic_version_iff _).1 hfirst
  have hnone : magicBad s = false ∧ keylenFieldBad s = false ∧ roundsFieldBad s = false ∧ pwdFieldBad s = false ∧
      saltFieldBad s = false ∧ padBad s = false := by
    simp only [← Bool.not_eq_true, magicBad_iff, keylenFieldBad_iff, roundsFieldBad_iff, pwdFieldBad_iff,
      saltFieldBad_iff, padBad_iff, not_not]
    exact ⟨hmagic, hkeylen, hrounds, hpwd, hsalt, hpad⟩
  obtain ⟨nmagic, nkeylen, nrounds, npwd, nsalt, npad⟩ := hnone
  rw [headerResult_full s (by decide), hversion, nmagic, nkeylen, nrounds, npwd, nsalt, npad]
  rfl

theorem headerReady_afterHdrBuild {s : State} (h : HeaderReady s) : HeaderReady (afterHdrBuild s) := by
  rwa [HeaderReady, afterHdrBuild_cfg, afterHdrBuild_dg]

/-- Settles O45: HDR_BUILD keeps what the header is made of, so HDR holds the header of the configuration it left. -/
theorem builtHeaderPassesItsCheck : Obligations.BuiltHeaderPassesItsCheck := by
  intro s t hready hbuild
  cases (exec_hdrBuild_ready hready).symm.trans hbuild
  have hresult : headerResult (afterHdrBuild s) 128 = 0x00000100#32 :=
    headerResult_of_image (by rw [afterHdrBuild_cfg, afterHdrBuild_dg]; exact hdrHolds_afterHdrBuild s)
  refine ⟨_, exec_hdrCheck_ready 128 (headerReady_afterHdrBuild hready), ?_⟩
  rw [afterHdrCheck, hresult]
  exact ⟨rfl, rfl, rfl⟩

/-! ### A header built under another configuration -/

theorem afterHdrCheck_rejects {s : State} {len : BitVec 9} {i : Nat} (hi : i < 7)
    (h : (headerResult s len).getLsbD i = true) :
    (afterHdrCheck len s).hdrResult.getLsbD i = true ∧ (afterHdrCheck len s).err = .headerInvalid ∧
    (afterHdrCheck len s).hdrOk = false := by
  have hfails : headerPassed (headerResult s len) = false := headerPassed_eq_false hi h
  exact ⟨h, by simp [afterHdrCheck, checkCode, hfails], hfails⟩

theorem le32_injective : Function.Injective le32 := Function.LeftInverse.injective uLE32_le32

/-- Settles O46: HDR holds the fields of the old configuration, so a check that passes makes the new field the old. -/
theorem wrongCredentialsAreRejected : Obligations.WrongCredentialsAreRejected := by
  intro s t u hs hbuild hu hbytes
  cases (exec_hdrBuild_ready hs).symm.trans hbuild
  have himage : HdrHolds u 0 (headerImage s.cfg s.dg) :=
    (hdrHolds_afterHdrBuild s).congr (by rwa [headerImage_length])
  obtain ⟨-, hkeylen, hrounds, hpwd, hsalt, -⟩ := (hdrHolds_headerImage_iff _ _ _).1 himage
  obtain ⟨-, -, bkeylen, brounds, bpwd, bsalt, -⟩ := headerResult_flags u (len := 128) (by decide)
  refine ⟨_, exec_hdrCheck_ready 128 hu,
    fun hne => afterHdrCheck_rejects (by decide) (bkeylen.trans ((keylenFieldBad_iff u).2 fun hnew => hne ?keylen)),
    fun hne => afterHdrCheck_rejects (by decide) (brounds.trans ((roundsFieldBad_iff u).2 fun hnew => hne ?rounds)),
    fun hne => afterHdrCheck_rejects (by decide) (bpwd.trans ((pwdFieldBad_iff u).2 fun hnew => hne ?pwd)),
    fun hne => afterHdrCheck_rejects (by decide) (bsalt.trans ((saltFieldBad_iff u).2 fun hnew => hne ?salt))⟩
  case keylen =>
    have hwide := le32_injective (hnew.unique hkeylen rfl)
    bv_omega
  case rounds => exact le32_injective (hnew.unique hrounds rfl)
  case pwd => exact Vector.toList_inj.1 (hnew.unique hpwd (by simp))
  case salt => exact Vector.toList_inj.1 (hnew.unique hsalt (by simp))

end Sys2Proof.Proofs
end

section
/-! SUPPORT. A whole digest computation, DG_INIT to a DG_FINAL, is SHA3-256 (O42). -/

namespace Sys2Proof.Proofs

open Sys2Proof.Machine Sys2Proof.Claims

/-! ### A chunk in BUF -/

/-- BUF holds from byte 0 up the string written there (R71). -/
theorem bufSlice_writeRamBytes (c : List Byte) (s : State) :
    bufSlice (writeRamBytes bufBase c s) 0 c.length = c := by
  apply List.ext_getElem
  · simp [bufSlice]
  · intro k _ hk
    simp [bufSlice, bufByte, readRam_writeRamBytes, hk]

/-- The digest unit after the bytes `m` are absorbed. -/
def withAbsorbed (m : List Byte) (d : DigestUnit) : DigestUnit := { d with sponge := absorbBytes d.sponge m }

theorem absorbed_writeRamBytes (c : List Byte) (s : State) :
    absorbed 0 c.length (writeRamBytes bufBase c s) = withAbsorbed c s.dg := by
  rw [absorbed, bufSlice_writeRamBytes, writeRamBytes_dg, withAbsorbed]

theorem withAbsorbed_append (m m' : List Byte) (d : DigestUnit) :
    withAbsorbed m' (withAbsorbed m d) = withAbsorbed (m ++ m') d := by
  simp only [withAbsorbed, absorbBytes_append]

/-- Loading a chunk into BUF and absorbing it (R71) absorbs that chunk. -/
theorem exec_dgAbsorb_loaded {c : List Byte} {s : State} (active : s.dg.active = true) (fits : c.length ≤ 256) :
    exec (.dgAbsorb 0 (BitVec.ofNat 9 c.length)) (writeRamBytes bufBase c s) =
      .next (afterDigest (withAbsorbed c s.dg) (writeRamBytes bufBase c s)) := by
  have hlen : (BitVec.ofNat 9 c.length).toNat = c.length := by rw [BitVec.toNat_ofNat, Nat.mod_eq_of_lt (by omega)]
  have hoff : (0 : BitVec 8).toNat = 0 := rfl
  rw [exec_dgAbsorb_ok (by rwa [writeRamBytes_dg]) (by omega), hlen, hoff, absorbed_writeRamBytes]

/-! ### All chunks of a message -/

/-- Absorbing the chunks of a message one by one absorbs the message, however it is cut (R71, R86). -/
theorem absorbChunks_dg {chunks : List (List Byte)} {s : State} (active : s.dg.active = true)
    (fit : ∀ c ∈ chunks, c.length ≤ 256) :
    ∃ t, absorbChunks chunks s = .next t ∧ t.dg = withAbsorbed chunks.flatten s.dg := by
  induction chunks generalizing s with
  | nil => exact ⟨s, rfl, rfl⟩
  | cons c rest ih =>
    obtain ⟨hc, hrest⟩ := List.forall_mem_cons.1 fit
    obtain ⟨t, hrun, hdg⟩ := ih (s := afterDigest (withAbsorbed c s.dg) (writeRamBytes bufBase c s)) active hrest
    refine ⟨t, ?_, ?_⟩
    · rw [absorbChunks, exec_dgAbsorb_loaded active hc]
      exact hrun
    · rw [hdg, afterDigest_dg, withAbsorbed_append, List.flatten_cons]

/-- Settles O42: DG_INIT leaves the zero sponge, the chunks put the message into it, and the digest of that sponge is
`sha3_256` by definition. -/
theorem digestCommandsComputeSha3 : Obligations.DigestCommandsComputeSha3 := by
  intro s chunks fit
  obtain ⟨t, hrun, hdg⟩ :=
    absorbChunks_dg (s := afterDigest { s.dg with sponge := Sponge.zero, active := true } s) rfl fit
  have active : t.dg.active = true := by rw [hdg]; rfl
  have digest : spongeDigest t.dg.sponge = sha3_256 chunks.flatten := by rw [hdg]; rfl
  exact ⟨_, t, _, _, exec_dgInit s, hrun, exec_dgFinalPwd_ok active, exec_dgFinalSalt_ok active,
    rfl, rfl, digest, rfl, digest, rfl⟩

end Sys2Proof.Proofs
end

section
/-! SUPPORT. The S-box table against its definition, the affine map of the inverse in GF(2^8) (O56). -/

namespace Sys2Proof.Proofs

open Sys2Proof.Machine

/-! ### The affine map -/

/-- The affine map of R94. -/
def affineMap (b : Byte) : Byte :=
  b ^^^ b.rotateLeft 1 ^^^ b.rotateLeft 2 ^^^ b.rotateLeft 3 ^^^ b.rotateLeft 4 ^^^ 0x63#8

/-- The way back from the affine map of R94, by `affineMap_affineInverse`. -/
def affineInverse (y : Byte) : Byte := y.rotateLeft 1 ^^^ y.rotateLeft 3 ^^^ y.rotateLeft 6 ^^^ 0x05#8

theorem affineMap_affineInverse : ∀ y : Byte, affineMap (affineInverse y) = y := by decide

/-! ### The table -/

theorem affineInverse_sbox_zero : affineInverse (sbox 0#8) = 0#8 := by decide

/-- What the entries of the table of R94 are, the affine map undone: the inverses of their indices. -/
theorem gfMul_affineInverse_sbox : ∀ a : Byte, a ≠ 0#8 → gfMul a (affineInverse (sbox a)) = 1#8 := by decide

/-- Settles O56: undoing the affine map on the entry of `a` gives the `b` asked for. -/
theorem sboxIsTheAffineInverse : Obligations.SboxIsTheAffineInverse := by
  intro a
  refine ⟨affineInverse (sbox a), ?inverse, (affineMap_affineInverse (sbox a)).symm⟩
  case inverse =>
    by_cases ha : a = 0#8
    · exact .inl ⟨ha, ha ▸ affineInverse_sbox_zero⟩
    · exact .inr (gfMul_affineInverse_sbox a ha)

end Sys2Proof.Proofs
end

section
/-! SUPPORT. What the outside gets from the machine: a refused transaction (O13), reads that show no secret (O12), the
interrupt registers and the line (O23, O24), and the instances of a system apart (O55). -/

namespace Sys2Proof.Proofs

open Sys2Proof.Machine Sys2Proof.Claims

/-! ### A refused transaction -/

theorem transact_illegal {q : BusReq} (h : Illegal q) (s : State) : transact q s = (slverrResult q s, s) := by
  simp only [transact, (reqReg_eq_none_iff q).2 h]

@[simp] theorem slverrResult_resp (q : BusReq) (s : State) : (slverrResult q s).resp = .slverr := by
  cases q <;> rfl

/-- Settles O13: an illegal transaction reaches no register, so nothing but its response comes of it. -/
theorem slverrChangesNothing : Obligations.SlverrChangesNothing := by
  intro s q hq
  rw [transact_illegal hq]
  exact ⟨slverrResult_resp q s, rfl, rfl, rfl, rfl⟩

/-! ### The secrets -/

/-- `s` with other contents of KEY, KS_KEY, ECOUNT and SPONGE, the places R113 keeps from the bus. -/
def withSecrets (key : Vector Word 8) (ksKey : List Byte) (ecount : Vector Byte 16) (sponge : Sponge) (s : State) : State :=
  { s with
    cfg := { s.cfg with key := key }
    ks := { s.ks with key := ksKey, ecount := ecount }
    dg := { s.dg with sponge := sponge } }

section Secrets

variable (key : Vector Word 8) {ksKey : List Byte} (ecount : Vector Byte 16) (sponge : Sponge) {s : State}
  (hkey : ksKey = [] ↔ s.ks.key = [])
include hkey

/-- All that STATUS tells of KS_KEY is whether it is empty (R38). -/
theorem ksReady_withSecrets : (withSecrets key ksKey ecount sponge s).ksReady = s.ksReady := by
  rw [ksReady_eq_decide, ksReady_eq_decide]
  exact decide_eq_decide.2 (not_congr hkey)

/-- No register's value is made of a secret: KEY reads 0 (R23), and STATUS has KS_READY alone. -/
theorem regValue_withSecrets (r : Reg) : regValue (withSecrets key ksKey ecount sponge s) r = regValue s r := by
  cases r with
  | status =>
    have hready := ksReady_withSecrets key ecount sponge hkey
    simp only [regValue, statusWord, hready]
    rfl
  | _ => rfl

end Secrets

/-- Settles O12: a read whose value the spec gives answers the register's value, which `regValue_withSecrets` keeps. -/
theorem keyIsNotReadable : Obligations.KeyIsNotReadable := by
  intro s key ksKey ecount sponge r hread hkey
  change (transact (regRead r) (withSecrets key ksKey ecount sponge s)).1 = _
  have hread' : (withSecrets key ksKey ecount sponge s).busy = false ∨ BusyReadable r := hread
  rw [transact_regRead, transact_regRead, readReg_eq_regValue hread, readReg_eq_regValue hread',
    regValue_withSecrets key ecount sponge hkey r]

/-! ### A clear in the cycle of a completion -/

theorem busPhase_regWrite (r : Reg) (v : Word) (s : State) :
    busPhase (some (regWrite r v)) s =
      .next { writeReg r v s with resp := some { resp := .okay, data := none } } := by
  simp [busPhase, transact_regWrite]

/-- A write of IRQ_STATUS clears the bits written 1, busy or idle (R29, R121). -/
theorem getLsbD_writeReg_irqStatus (v : Word) (s : State) {k : Nat} (hk : k < 3) :
    (writeReg .irqStatus v s).irqStatus.getLsbD k = (s.irqStatus.getLsbD k && !v.getLsbD k) := by
  have hstore : writeReg .irqStatus v s = storeReg .irqStatus v s := by simp [writeReg, regAccess, regBusyWritable]
  simp [hstore, storeReg, hk]

/-- Settles O23: the clear comes in the bus phase, and then the completion records its bits over what that leaves. -/
theorem setWinsOverClear : Obligations.SetWinsOverClear := by
  intro s w v rest hp hrem hin
  have hc := cycleInput_cons hin
  have hb : busPhase (cycleInput s).bus (takeInput s) =
      .next { writeReg .irqStatus v (takeInput s) with resp := some { resp := .okay, data := none } } := by
    rw [hc]; exact busPhase_regWrite .irqStatus v _
  have hstep := step_last (by rw [hc]) hb hp hrem
  obtain ⟨e, t, hx, rfl, -, -, hdone, herr, hwerr⟩ := executeWord_recorded w _
  refine ⟨t, hstep.trans hx, hdone, ?_, ?_⟩
  · rw [herr, getLsbD_writeReg_irqStatus v _ (by decide), takeInput_irqStatus]
  · rw [hwerr, getLsbD_writeReg_irqStatus v _ (by decide), takeInput_irqStatus]

/-! ### The interrupt line -/

/-- A bit vector is not 0 just when one of its bits is 1. -/
theorem ne_zero_iff_exists_getLsbD {n : Nat} (x : BitVec n) : x ≠ 0#n ↔ ∃ i < n, x.getLsbD i = true := by
  rw [ne_eq, BitVec.eq_of_getLsbD_eq_iff]
  simp

/-- Source `k` drives the interrupt line: it is pending and enabled (R108). -/
def Asserts (k : Nat) (s : State) : Prop := s.irqStatus.getLsbD k = true ∧ s.irqEn.getLsbD k = true

theorem asserts_congr {k : Nat} {s t : State} (hs : t.irqStatus = s.irqStatus) (he : t.irqEn = s.irqEn) :
    Asserts k t ↔ Asserts k s := by
  rw [Asserts, Asserts, hs, he]

/-- The line is the OR of the three sources (R108). -/
theorem irq_iff_asserts (s : State) : s.irq = true ↔ ∃ k < 3, Asserts k s := by
  rw [State.irq, decide_eq_true_iff, ne_zero_iff_exists_getLsbD]
  simp only [BitVec.getLsbD_and, Bool.and_eq_true, Asserts]

/-- Nothing but a 1 in IRQ_STATUS or a 0 in IRQ_EN at its bit silences a source (R28, R29). -/
theorem asserts_storeReg {r : Reg} {v : Word} {k : Nat} {s : State} (hk : k < 3) (h : Asserts k s)
    (hclear : r = .irqStatus → v.getLsbD k = false) (hdisable : r = .irqEn → v.getLsbD k = true) :
    Asserts k (storeReg r v s) := by
  by_cases hst : r = .irqStatus
  · subst hst
    exact ⟨by simp [storeReg, h.1, hclear rfl, hk], h.2⟩
  · by_cases hen : r = .irqEn
    · subst hen
      exact ⟨h.1, by simp [storeReg, hdisable rfl, hk]⟩
    · exact (asserts_congr (storeReg_irqStatus hst v s) (storeReg_irqEn hen v s)).2 h

/-- Setting WERR and recording a completion only set bits of IRQ_STATUS (R29, R56). -/
theorem asserts_setWerr {k : Nat} {s : State} (h : Asserts k s) : Asserts k (setWerr s) :=
  ⟨by simp [h.1], h.2⟩

theorem asserts_complete {k : Nat} {s : State} (e : ErrCode) (h : Asserts k s) : Asserts k (complete e s) :=
  ⟨by simp [h.1], h.2⟩

/-- The bus phase keeps a source that the host neither clears nor disables in it. -/
theorem asserts_busPhase {k : Nat} {s s1 : State} (hk : k < 3) (h : Asserts k s)
    (hclear : ∀ v, HostWritesValue s .irqStatus v → v.getLsbD k = false)
    (hdisable : ∀ v, HostWritesValue s .irqEn v → v.getLsbD k = true)
    (hb : busPhase (cycleInput s).bus (takeInput s) = .next s1) : Asserts k s1 := by
  have htake : Asserts k (takeInput s) := h
  rcases busPhase_cases (cycleInput s).bus (takeInput s) with ⟨-, hb'⟩ | ⟨q, r, hq, hr, hb'⟩ | ⟨q, -, -, hb'⟩ <;>
    rw [hb'] at hb <;> cases hb
  · exact htake
  · change Asserts k (accessReg q r (takeInput s)).2
    rcases accessReg_state q r (takeInput s) with ha | ha | ha | ⟨o, z, b, v, rfl, -, ha⟩ <;> rw [ha]
    · exact htake
    · exact htake
    · exact asserts_setWerr htake
    · exact asserts_storeReg hk htake (fun e => hclear v ⟨o, z, b, hq, e ▸ hr⟩) fun e => hdisable v ⟨o, z, b, hq, e ▸ hr⟩

/-- No effect of a command reaches the interrupt registers. -/
theorem Effect.asserts_iff {i : Instr} {s s' : State} (h : Effect i s s') (k : Nat) : Asserts k s' ↔ Asserts k s :=
  asserts_congr (by rw [h.frame]) (by rw [h.frame])

/-- Executing a word silences no source: effects do not reach it, and the completion sets bits alone. -/
theorem asserts_executeWord {k : Nat} {w : Word} {s t : State} (h : Asserts k s) (hx : executeWord exec w s = .next t) :
    Asserts k t := by
  obtain ⟨e, s', rfl, rfl | ⟨i, -, heff⟩⟩ := executeWord_effect hx
  · exact asserts_complete e h
  · exact asserts_complete e ((heff.asserts_iff k).2 h)

/-- Settles O24: the host's transaction keeps the source by `asserts_busPhase`, and the engine clears no bit. -/
theorem irqLineIsLevelSensitive : Obligations.IrqLineIsLevelSensitive := by
  refine ⟨irq_iff_asserts, fun s t k hk hpending henabled hstep hr hclear hdisable => ?_⟩
  have hstays : Asserts k t := by
    rcases step_cases hstep with ⟨hreset, -⟩ | ⟨-, s1, hb, hcase⟩
    · exact absurd hreset hr
    · have h1 : Asserts k s1 := asserts_busPhase hk ⟨hpending, henabled⟩ hclear hdisable hb
      rcases hcase with ⟨-, rfl⟩ | ⟨w, -, -, rfl⟩ | ⟨w, -, -, hx⟩
      · exact h1
      · exact h1
      · exact asserts_executeWord h1 hx
  obtain ⟨hpending', henabled'⟩ := hstays
  exact ⟨hpending', henabled', (irq_iff_asserts t).2 ⟨k, hk, hpending', henabled'⟩⟩

/-! ### Several instances -/

/-- A step at index `k` replaces the state there, and that alone (R115). -/
theorem systemStep_next {n : Nat} {k : Fin n} {sys sys' : System n} (h : systemStep k sys = .next sys') :
    ∃ s, step sys[k] = .next s ∧ sys' = sys.set k s := by
  unfold systemStep at h
  cases hstep : step sys[k] <;> rw [hstep] at h <;> cases h
  exact ⟨_, rfl, rfl⟩

@[simp] theorem systemIrq_getElem {n : Nat} (sys : System n) (j : Fin n) : (systemIrq sys)[j] = sys[j].irq := by
  simp [systemIrq]

/-- Settles O55: the new system is the old one with entry `k` set. -/
theorem instancesAreIndependent : Obligations.InstancesAreIndependent := by
  intro n sys sys' k h
  obtain ⟨s, hstep, rfl⟩ := systemStep_next h
  refine ⟨⟨s, hstep, Vector.getElem_set_self k.isLt⟩, fun j hj => ?_⟩
  have hsame : (sys.set k s)[j] = sys[j] := Vector.getElem_set_ne k.isLt j.isLt (Fin.val_ne_of_ne hj.symm)
  exact ⟨hsame, by rw [systemIrq_getElem, systemIrq_getElem, hsame]⟩

end Sys2Proof.Proofs
end

section
/-! SUPPORT. The codes commands complete with: the first error of the row of R105 (O48), and what an error leaves alone
(O47). -/

namespace Sys2Proof.Proofs

open Sys2Proof.Machine Sys2Proof.Claims

/-! ### The causes of the errors -/

theorem ksReady_eq_true_iff (s : State) : s.ksReady = true ↔ s.ks.key ≠ [] := by
  rw [ksReady_eq_decide, decide_eq_true_iff]

theorem ksReady_eq_false_iff (s : State) : s.ksReady = false ↔ s.ks.key = [] := by
  rw [← Bool.not_eq_true, ksReady_eq_true_iff, not_not]

/-- A header that was supplied whole fails HDR_CHECK by one of its six comparisons (R91). -/
theorem headerBad_full_iff (s : State) {n : Nat} (h : 128 ≤ n) :
    HeaderBad s n ↔ magicBad s = true ∨ keylenFieldBad s = true ∨ roundsFieldBad s = true ∨ pwdFieldBad s = true ∨
      saltFieldBad s = true ∨ padBad s = true := by
  simp only [HeaderBad, Nat.not_lt.2 h, false_or, magicBad_iff, keylenFieldBad_iff, roundsFieldBad_iff, pwdFieldBad_iff,
    saltFieldBad_iff, padBad_iff, hdrHolds_le32_iff, hdrHolds_digest_iff, hdrHolds_replicate_iff, wordByte, keylenByte,
    roundsByte, Config.magic, not_forall, exists_prop, ne_eq]

/-- HDR_CHECK fails just when one of `r[6:0]` is 1 (R91). -/
theorem headerPassed_eq_false_iff (r : Word) :
    headerPassed r = false ↔ r.getLsbD 0 = true ∨ r.getLsbD 1 = true ∨ r.getLsbD 2 = true ∨ r.getLsbD 3 = true ∨
      r.getLsbD 4 = true ∨ r.getLsbD 5 = true ∨ r.getLsbD 6 = true := by
  rw [← Bool.not_eq_true, headerPassed_iff, ← ne_eq, ne_zero_iff_exists_getLsbD]
  simp only [Nat.exists_lt_succ_left, Nat.not_lt_zero, false_and, exists_false, or_false, BitVec.getLsbD_extractLsb',
    Nat.reduceAdd, Nat.reduceLT, decide_true, Bool.true_and]

/-- The result that HDR_CHECK computes fails just when a check does: SHORT alone, or one of the six comparisons (R91). -/
theorem headerPassed_headerResult_iff (s : State) (len : BitVec 9) :
    headerPassed (headerResult s len) = false ↔ HeaderBad s len.toNat := by
  by_cases h : len.toNat < 128
  · rw [headerResult_short s h]
    exact iff_of_true (by decide) (.inl h)
  · have hfull := Nat.not_lt.1 h
    obtain ⟨hshort, hmagic, hkeylen, hrounds, hpwd, hsalt, hpad, -⟩ := headerResult_flags s hfull
    rw [headerPassed_eq_false_iff, hshort, hmagic, hkeylen, hrounds, hpwd, hsalt, hpad, headerBad_full_iff s hfull]
    simp

/-! ### What a command that raises an error has done -/

/-- `CompletesFrom e s s'`: a command run at `s` may record code `e` at `s'`. With OK its effects come before; an error
is raised at the state it finds (R103, R104), but for HEADER_INVALID, which comes after the check's result. `exec_outcome`
ties it to `exec`. -/
inductive CompletesFrom : ErrCode → State → State → Prop
  | effects (s s' : State) : CompletesFrom .ok s s'
  | raised (e : ErrCode) (s : State) : CompletesFrom e s s
  | headerInvalid (r : Word) (s : State) : CompletesFrom .headerInvalid s (recordCheck r s)

/-- Every command completes with the first error of its row of R105, and with none of its effects if that is not OK. -/
theorem exec_outcome (i : Instr) (s : State) :
    ∃ e s', exec i s = .next (complete e s') ∧ FirstError i s e ∧ CompletesFrom e s s' := by
  cases i with
  | nop => exact ⟨_, _, rfl, rfl, .effects _ _⟩
  | init =>
    rcases execInit_cases s with ⟨hlen, h⟩ | ⟨hlen, h⟩
    · exact ⟨_, _, h, .inl ⟨hlen, rfl⟩, .raised _ s⟩
    · exact ⟨_, _, h, .inr ⟨hlen, rfl⟩, .effects _ _⟩
  | seek =>
    have hpos := toNat_seekOffset s
    rcases execSeek_cases s with ⟨hready, h⟩ | ⟨hready, hrange, h⟩ | ⟨hready, hrange, h⟩
    · exact ⟨_, _, h, .inl ⟨(ksReady_eq_false_iff s).1 hready, rfl⟩, .raised _ s⟩
    · exact ⟨_, _, h, .inr (.inl ⟨(ksReady_eq_true_iff s).1 hready, hpos ▸ hrange, rfl⟩), .raised _ s⟩
    · exact ⟨_, _, h, .inr (.inr ⟨(ksReady_eq_true_iff s).1 hready, hpos ▸ hrange, rfl⟩), .effects _ _⟩
  | xor off len =>
    rcases execXor_cases off len s with
      ⟨hready, h⟩ | ⟨hready, hbuf, h⟩ | ⟨hready, hbuf, hrange, h⟩ | ⟨hready, hbuf, hrange, h⟩
    · exact ⟨_, _, h, .inl ⟨(ksReady_eq_false_iff s).1 hready, rfl⟩, .raised _ s⟩
    · exact ⟨_, _, h, .inr (.inl ⟨(ksReady_eq_true_iff s).1 hready, hbuf, rfl⟩), .raised _ s⟩
    · exact ⟨_, _, h, .inr (.inr (.inl ⟨(ksReady_eq_true_iff s).1 hready, hbuf, hrange, rfl⟩)), .raised _ s⟩
    · exact ⟨_, _, h, .inr (.inr (.inr ⟨(ksReady_eq_true_iff s).1 hready, hbuf, hrange, rfl⟩)), .effects _ _⟩
  | dgInit => exact ⟨_, _, rfl, rfl, .effects _ _⟩
  | dgAbsorb off len =>
    rcases execDgAbsorb_cases off len s with ⟨hactive, h⟩ | ⟨hactive, hbuf, h⟩ | ⟨hactive, hbuf, h⟩
    · exact ⟨_, _, h, .inl ⟨hactive, rfl⟩, .raised _ s⟩
    · exact ⟨_, _, h, .inr (.inl ⟨hactive, hbuf, rfl⟩), .raised _ s⟩
    · exact ⟨_, _, h, .inr (.inr ⟨hactive, hbuf, rfl⟩), .effects _ _⟩
  | dgFinalPwd =>
    rcases execDgFinalPwd_cases s with ⟨hactive, h⟩ | ⟨hactive, h⟩
    · exact ⟨_, _, h, .inl ⟨hactive, rfl⟩, .raised _ s⟩
    · exact ⟨_, _, h, .inr ⟨hactive, rfl⟩, .effects _ _⟩
  | dgFinalSalt =>
    rcases execDgFinalSalt_cases s with ⟨hactive, h⟩ | ⟨hactive, h⟩
    · exact ⟨_, _, h, .inl ⟨hactive, rfl⟩, .raised _ s⟩
    · exact ⟨_, _, h, .inr ⟨hactive, rfl⟩, .effects _ _⟩
  | hdrBuild =>
    rcases execHdrBuild_cases s with ⟨hlen, h⟩ | ⟨hlen, hmissing, h⟩ | ⟨hlen, hpwd, hsalt, h⟩
    · exact ⟨_, _, h, .inl ⟨hlen, rfl⟩, .raised _ s⟩
    · exact ⟨_, _, h, .inr (.inl ⟨hlen, hmissing, rfl⟩), .raised _ s⟩
    · exact ⟨_, _, h, .inr (.inr ⟨⟨hlen, hpwd, hsalt⟩, rfl⟩), .effects _ _⟩
  | hdrCheck len =>
    have hbad := headerPassed_headerResult_iff s len
    rcases execHdrCheck_cases len s with
      ⟨hlen, h⟩ | ⟨hlen, hmissing, h⟩ | ⟨hlen, hpwd, hsalt, hfails, h⟩ | ⟨hlen, hpwd, hsalt, hpasses, h⟩
    · exact ⟨_, _, h, .inl ⟨hlen, rfl⟩, .raised _ s⟩
    · exact ⟨_, _, h, .inr (.inl ⟨hlen, hmissing, rfl⟩), .raised _ s⟩
    · exact ⟨_, _, h, .inr (.inr (.inl ⟨⟨hlen, hpwd, hsalt⟩, hbad.1 hfails, rfl⟩)), .headerInvalid _ s⟩
    · exact ⟨_, _, h, .inr (.inr (.inr ⟨⟨hlen, hpwd, hsalt⟩, mt hbad.2 (by simp [hpasses]), rfl⟩)), .effects _ _⟩
  | close => exact ⟨_, _, rfl, rfl, .effects _ _⟩

/-- Settles O48: `exec_outcome` names the code of a legal word, and an illegal word has its own. -/
theorem firstErrorIsReported : Obligations.FirstErrorIsReported := by
  refine ⟨fun w s e hd => ⟨_, executeWord_of_error hd s, rfl⟩, fun w s i hd => ?_⟩
  obtain ⟨e, s', hexec, hfirst, -⟩ := exec_outcome i s
  exact ⟨_, (executeWord_of_decode hd s).trans hexec, hfirst⟩

/-! ### The frame of an error -/

/-- A word's execution, legal or not, records its code at a state that an error has left alone. -/
theorem executeWord_outcome (w : Word) (s : State) :
    ∃ e s', executeWord exec w s = .next (complete e s') ∧ CompletesFrom e s s' := by
  cases hd : decode w with
  | ok i =>
    obtain ⟨e, s', hexec, -, hfrom⟩ := exec_outcome i s
    exact ⟨e, s', (executeWord_of_decode hd s).trans hexec, hfrom⟩
  | error err => exact ⟨_, s, executeWord_of_error hd s, .raised _ s⟩

/-- Settles O47: an error is recorded at the state it finds, or, HEADER_INVALID, at that with the check's result. -/
theorem errorsChangeNothingElse : Obligations.ErrorsChangeNothingElse := by
  intro w s
  obtain ⟨e, s', hx, hfrom⟩ := executeWord_outcome w s
  refine ⟨_, hx, fun (he : e ≠ .ok) => ?_⟩
  cases hfrom with
  | effects => exact absurd rfl he
  | raised =>
    exact ⟨recorded_complete e rfl rfl, rfl, rfl, rfl, rfl, readRam_congr rfl rfl, fun _ => ⟨rfl, rfl⟩⟩
  | headerInvalid r =>
    exact ⟨recorded_complete _ rfl rfl, rfl, rfl, rfl, rfl, readRam_congr rfl rfl, fun hne => absurd rfl hne⟩

end Sys2Proof.Proofs
end

section
/-! SUPPORT. Writes that are ignored (O11), runs with a dutiful host (O54), and reset (O25, O26, O52). -/

namespace Sys2Proof.Proofs

open Sys2Proof.Machine Sys2Proof.Claims

/-! ### Which writes take effect -/

theorem readOnly_iff (r : Reg) : ReadOnly r ↔ regAccess r = .ro := by
  cases r <;> simp [ReadOnly, regAccess]

/-- Every writable register but IRQ_EN and IRQ_STATUS waits for BUSY = 0 (R121). -/
theorem idleWritable_iff (r : Reg) : IdleWritable r ↔ regAccess r ≠ .ro ∧ regBusyWritable r = false := by
  cases r <;> simp [IdleWritable, regAccess, regBusyWritable]

theorem writeReg_readOnly {r : Reg} (h : ReadOnly r) (v : Word) (s : State) : writeReg r v s = s := by
  rw [writeReg, if_pos ((readOnly_iff r).1 h)]

theorem writeReg_ignored {r : Reg} (h : IdleWritable r) (v : Word) {s : State} (hb : s.busy = true) :
    writeReg r v s = setWerr s := by
  obtain ⟨hro, hbw⟩ := (idleWritable_iff r).1 h
  rw [writeReg, if_neg hro, hb, hbw, Bool.not_false, Bool.and_true, if_pos rfl]

theorem writeReg_irqEn (v : Word) (s : State) : writeReg .irqEn v s = { s with irqEn := v.extractLsb' 0 3 } := by
  simp [writeReg, regAccess, regBusyWritable, storeReg]

theorem writeReg_irqStatus (v : Word) (s : State) :
    writeReg .irqStatus v s = { s with irqStatus := s.irqStatus &&& ~~~(v.extractLsb' 0 3) } := by
  simp [writeReg, regAccess, regBusyWritable, storeReg]

/-- Settles O11: the answer to a register write is always OKAY, and each class of registers has its rule of `writeReg`. -/
theorem busyWritesAreIgnored : Obligations.BusyWritesAreIgnored := by
  intro s r v
  rw [transact_regWrite]
  refine ⟨fun hb hr => ?_, ?_, ?_, fun hr => ?_⟩
  · rw [writeReg_ignored hr v hb, setWerr]
  · rintro rfl
    rw [writeReg_irqEn]
  · rintro rfl
    rw [writeReg_irqStatus]
  · rw [writeReg_readOnly hr]

/-! ### What is left of the inbox after a step -/

@[simp] theorem writeRamBytes_inbox (a : Nat) (bs : List Byte) (s : State) :
    (writeRamBytes a bs s).inbox = s.inbox := by
  rw [writeRamBytes_eq]

@[simp] theorem storeReg_inbox (r : Reg) (v : Word) (s : State) : (storeReg r v s).inbox = s.inbox := by
  cases r <;> simp [storeReg, storeRam]

@[simp] theorem accessReg_inbox (q : BusReq) (r : Reg) (s : State) : (accessReg q r s).2.inbox = s.inbox := by
  rcases accessReg_state q r s with h | h | h | ⟨o, z, b, v, -, -, h⟩ <;> simp [h]

theorem busPhase_inbox {bus : Option BusReq} {s s1 : State} (h : busPhase bus s = .next s1) : s1.inbox = s.inbox := by
  rcases busPhase_cases bus s with ⟨-, hb⟩ | ⟨q, r, -, -, hb⟩ | ⟨q, -, -, hb⟩ <;> rw [hb] at h <;> cases h
  · rfl
  · exact accessReg_inbox q r s

theorem Effect.inbox_eq {i : Instr} {s s' : State} (h : Effect i s s') : s'.inbox = s.inbox := by
  rw [h.frame]

theorem executeWord_inbox {w : Word} {s t : State} (h : executeWord exec w s = .next t) : t.inbox = s.inbox := by
  obtain ⟨e, s', rfl, rfl | ⟨i, -, heff⟩⟩ := executeWord_effect h
  · rfl
  · exact heff.inbox_eq

/-- Every step takes one entry from the inbox, reset or not (log 4). -/
theorem step_inbox {s t : State} (h : step s = .next t) : t.inbox = s.inbox.tail := by
  rcases step_cases h with ⟨-, rfl⟩ | ⟨-, s1, hb, hcase⟩
  · rfl
  · have h1 : s1.inbox = s.inbox.tail := busPhase_inbox hb
    rcases hcase with ⟨-, rfl⟩ | ⟨w, -, -, rfl⟩ | ⟨w, -, -, hx⟩
    · exact h1
    · exact h1
    · exact (executeWord_inbox hx).trans h1

/-! ### Runs with a dutiful host -/

/-- A cycle with reset asserted is the reset, whatever else happens in it (R119). -/
theorem step_reset {s : State} (h : ResetComing s) : step s = .next (resetCycle (cycleInput s).bus (takeInput s)) := by
  have hr : (cycleInput s).reset = true := h
  rw [step, cycle, if_pos hr]

/-- Only a fault of the bus phase can stop a step: the engine always goes on. -/
theorem step_next_of_busPhase_next {s s1 : State} (hr : (cycleInput s).reset = false)
    (hb : busPhase (cycleInput s).bus (takeInput s) = .next s1) : ∃ t, step s = .next t := by
  cases hp : s.pend with
  | none => exact ⟨_, step_idle hr hb hp⟩
  | some w =>
    by_cases hrem : s.remaining ≤ 1
    · obtain ⟨e, s', hx⟩ := executeWord_completes w s1
      exact ⟨_, (step_last hr hb hp hrem).trans hx⟩
    · exact ⟨_, step_wait hr hb hp (Nat.lt_of_not_le hrem)⟩

/-- A step whose input keeps the host's duty answers a next state, reset or not (R126, R45). -/
theorem step_next_of_dutifulInput {s : State} (hd : dutifulInput (cycleInput s) = true) : ∃ t, step s = .next t := by
  cases hr : (cycleInput s).reset with
  | true => exact ⟨_, step_reset hr⟩
  | false =>
    rcases busPhase_cases (cycleInput s).bus (takeInput s) with ⟨-, hb⟩ | ⟨q, r, -, -, hb⟩ | ⟨q, hq, hnone, -⟩
    · exact step_next_of_busPhase_next hr hb
    · exact step_next_of_busPhase_next hr hb
    · simp [dutifulInput, hr, hq, hnone] at hd

/-- The host's duty covers the coming cycle, and past the inbox's end, where every cycle is idle, it asks nothing. -/
theorem dutifulInput_cycleInput {s : State} (h : dutifulInbox s = true) : dutifulInput (cycleInput s) = true := by
  cases hin : s.inbox with
  | nil => rw [cycleInput_nil hin]; rfl
  | cons c rest => rw [cycleInput_cons hin]; exact List.all_eq_true.1 h c (by simp [hin])

/-- What a step leaves of a dutiful inbox is dutiful. -/
theorem step_dutifulInbox {s t : State} (h : dutifulInbox s = true) (hstep : step s = .next t) :
    dutifulInbox t = true := by
  rw [dutifulInbox, List.all_eq_true] at h ⊢
  intro c hc
  exact h c (List.mem_of_mem_tail (step_inbox hstep ▸ hc))

/-- Settles O54, by induction on the number of steps: a dutiful inbox does not stop the step and is dutiful after it. -/
theorem dutifulHostNeverStops : Obligations.DutifulHostNeverStops := by
  intro s n hd
  induction n generalizing s with
  | zero => exact ⟨s, rfl⟩
  | succ n ih =>
    obtain ⟨u, hstep⟩ := step_next_of_dutifulInput (dutifulInput_cycleInput hd)
    obtain ⟨t, hrun⟩ := ih u (step_dutifulInbox hd hstep)
    exact ⟨t, (core_run_succ hstep n).trans hrun⟩

/-! ### The state right after reset -/

/-- A digest register of zero bytes reads 0 in every word (R35). -/
theorem digestWord_zero (k : Nat) : digestWord (Vector.replicate 32 0#8) k = 0#32 := by
  have hbyte : ∀ j, (Vector.replicate 32 0#8).toList.getD j 0 = 0#8 := by
    intro j
    by_cases hj : j < 32
    · exact nth_replicate _ _ hj
    · simp [hj]
  simp only [digestWord, stringWord, hbyte, packWord, BitVec.zero_append_zero]

/-- The register values of R118: the two defaults, and 0 elsewhere but in HDR and BUF. -/
theorem regValue_reset {r : Reg} (hhdr : ∀ k, r ≠ .hdr k) (hbuf : ∀ k, r ≠ .buf k) :
    regValue State.reset r = if r = .ctrl then 2#32 else if r = .rounds then 5#32 else 0#32 := by
  cases r with
  | ivb k => exact nth_replicate _ _ k.isLt
  | pwdDigest k => exact digestWord_zero k
  | saltDigest k => exact digestWord_zero k
  | hdr k => exact absurd rfl (hhdr k)
  | buf k => exact absurd rfl (hbuf k)
  | _ => rfl

/-- While nothing is written HDR and BUF read the bytes drawn at the last reset (R118, log 1). -/
theorem readRam_of_mem_nil {s : State} (h : s.mem = []) (a : Nat) : readRam s a = Config.ramByte s.epoch a := by
  rw [readRam, h]
  rfl

/-- Settles O25: `regValue_reset` for the registers, and the hidden state is made of zero strings. -/
theorem resetRegisterValues : Obligations.ResetRegisterValues :=
  ⟨fun _ => regValue_reset, rfl, rfl, rfl, fun _ hj => nth_replicate _ _ hj, fun _ hj => nth_replicate _ _ hj,
    fun _ hj => nth_replicate _ _ hj, rfl, fun _ hk => nth_replicate _ _ hk, readRam_of_mem_nil rfl⟩

/-- Settles O26: the step is `resetCycle`, which takes from the state before it only the model's own fields. -/
theorem resetDiscardsTheCommand : Obligations.ResetDiscardsTheCommand := by
  intro s h
  refine ⟨_, step_reset h, ?_⟩
  rw [resetCycle_eq]
  exact ⟨rfl, rfl, rfl, rfl, rfl, rfl, rfl, rfl, rfl, rfl, readRam_of_mem_nil rfl, rfl, rfl⟩

/-- HDR_RESULT = 0, no key and no command: the data invariant right after reset. -/
theorem reset_wf : State.reset.wf = true :=
  (state_wf_iff _).2 ⟨reset_mem_wf, rfl, by decide, rfl⟩

/-- Settles O52: reset leaves the keystream state of a machine without a key, and the zero sponge. -/
theorem resetMeetsTheInvariants : Obligations.ResetMeetsTheInvariants :=
  ⟨reset_wf, keystreamOk_of_reset rfl, fun _ => rfl⟩

end Sys2Proof.Proofs
end
